-- ==== Sys2Proof/Word.lean ====
section
/-! DEFINITION. The word types: widths of 00_scope.md R15 and byte strings of a fixed length (R10). -/

namespace Sys2Proof

/-- A byte. -/
abbrev Byte := BitVec 8

/-- A register or bus word, 32 bits (00_scope.md R8, REG_WIDTH). -/
abbrev Word := BitVec 32

/-- A 64-bit word: counter, T0, STEP, time sample, elapsed and steps (00_scope.md R8). -/
abbrev Dword := BitVec 64

/-- A digest, 20 bytes, index 0 first in the message order (00_scope.md R8, R10). -/
abbrev Digest := Vector Byte 20

/-- A moving factor, 8 bytes, most significant first (00_scope.md R8). -/
abbrev Factor := Vector Byte 8

/-- A truncation window, 4 bytes (00_scope.md R8). -/
abbrev Window := Vector Byte 4

/-- A digit count a command accepts, 0 to 9 (00_scope.md R8). -/
abbrev Digits := Fin 10

end Sys2Proof
end

