-- ==== Sys2Proof/Config.lean ====
section
/-! DEFINITION. What an implementation fixes, and the free values: constants with no body, so that no proof can see what
they are.  The step reads `nowSec` and `latency` only, each where the script in State that stands for the same input is
exhausted. -/

namespace Sys2Proof

/-- The sample of the time input `now_sec` at draw number `k`: any 64-bit value, no two draws related
(40_byte_source.md R116; 93_implementation_defined.md U6; log entry 3). -/
opaque Config.nowSec (k : Nat) : Dword

/-- The number of host transactions between an acceptance and its completion at draw number `k`: any number
(43_commands.md R195; 93_implementation_defined.md U7; log entry 4). -/
opaque Config.latency (k : Nat) : Nat

/-- BASE_ADDR, the system address of offset 0x00: an open parameter of the block, any number (00_scope.md R8;
93_implementation_defined.md U11; log entry 17). -/
opaque Config.baseAddr : Nat

/-- The bytes a character outside ASCII stands for in a key text.  30_encoding.md R100 gives a text its ASCII bytes, and
such a character has none, so the bytes are free, their number too (DESIGN CHOICE, safe, log entry 18). -/
opaque Config.nonAsciiBytes (c : Char) : List Byte

/-- The reference value of KEY_CAP (00_scope.md R8). -/
def Config.referenceKeyCap : Nat := 64

/-- The bounds the spec puts on the open parameter KEY_CAP (00_scope.md R8). -/
abbrev Config.keyCapOk (cap : Nat) : Prop := 20 ≤ cap ∧ cap ≤ 2 ^ 31 - 1

end Sys2Proof
end

