-- ==== Sys2Proof/Syntax.lean ====
section
/-! DEFINITION. The syntax: register names, host transactions (format F-BUS), host-program statements, and the ONE
instruction type, one constructor per row of spec/opcode_table.json. -/

namespace Sys2Proof

/-- The 23 registers of the window, in slot order (10_state.md section 3). -/
inductive Reg where
  | id  -- 0x00 ID, RO (R23)
  | config  -- 0x04 CONFIG, RW (R24)
  | cmd  -- 0x08 CMD, WO (R25)
  | status  -- 0x0C STATUS, RO (R26)
  | code  -- 0x10 CODE, RO (R27)
  | snum  -- 0x14 SNUM, RO (R28)
  | offset  -- 0x18 OFFSET, RO (R29)
  | keyClr  -- 0x1C KEY_CLR, WO (R30)
  | keyData  -- 0x20 KEY_DATA, WO (R31)
  | keyLen  -- 0x24 KEY_LEN, RO (R32)
  | counterLo  -- 0x28 COUNTER_LO, WO (R33)
  | counterHi  -- 0x2C COUNTER_HI, WO (R33)
  | t0Lo  -- 0x30 T0_LO, RW (R34)
  | t0Hi  -- 0x34 T0_HI, RW (R34)
  | stepLo  -- 0x38 STEP_LO, RW (R35)
  | stepHi  -- 0x3C STEP_HI, RW (R35)
  | timeSampleLo  -- 0x40 TIME_SAMPLE_LO, RO (R37)
  | timeSampleHi  -- 0x44 TIME_SAMPLE_HI, RO (R37)
  | digestIn0  -- 0x48 DIGEST_IN0, RW (R38)
  | digestIn1  -- 0x4C DIGEST_IN1, RW (R38)
  | digestIn2  -- 0x50 DIGEST_IN2, RW (R38)
  | digestIn3  -- 0x54 DIGEST_IN3, RW (R38)
  | digestIn4  -- 0x58 DIGEST_IN4, RW (R38)
  deriving DecidableEq, Repr

/-- The access size of a transaction, 1, 2 or 4 bytes (20_memory.md R62; 30_encoding.md R91). -/
inductive Size where
  | one
  | two
  | four
  deriving DecidableEq, Repr

/-- One host transaction, the record of format F-BUS (20_memory.md R62; 30_encoding.md R91): `off` is the byte offset in
the 256-byte window, and `wdata` is ignored by a read. -/
structure Transaction where
  off   : BitVec 8
  size  : Size
  write : Bool
  wdata : Word
  deriving DecidableEq, Repr

/-- Why the block answers a transaction with SLVERR: the three checks of 20_memory.md R63 and R64, in the order of
60_exceptions.md R215 (a). -/
inductive BusError where
  | narrow      -- size is not 4 bytes (R63)
  | misaligned  -- off mod 4 is not 0 (R63)
  | unmapped    -- off is 0x5C to 0xFC (R64)
  deriving DecidableEq, Repr

/-- One statement of a host program (30_encoding.md R99): a `wr` or `rd` is one transaction, and a `poll` repeats the
read at `off` until the data read, masked, equals `val`. -/
inductive HostStmt where
  | bus  (t : Transaction)
  | poll (off : BitVec 8) (mask val : Word)
  deriving DecidableEq, Repr

/-- The instructions, one constructor per row of spec/opcode_table.json: the four command words of format F-CMD
(30_encoding.md R93), then a read and a write of each register (format F-BUS).  `wrCmd` stands for a write of a word to
CMD that is no legal command word; the four legal words have their own constructors (see WellFormed.lean). -/
inductive Instr where
  | nop         -- CMD word 0x00000000 (R183)
  | genCounter  -- CMD word 0x00000001 (R184)
  | genTime     -- CMD word 0x00000002 (R187)
  | truncate    -- CMD word 0x00000003 (R190)
  | rdId
  | wrId (wdata : Word)
  | rdConfig
  | wrConfig (wdata : Word)
  | rdCmd
  | wrCmd (wdata : Word)
  | rdStatus
  | wrStatus (wdata : Word)
  | rdCode
  | wrCode (wdata : Word)
  | rdSnum
  | wrSnum (wdata : Word)
  | rdOffset
  | wrOffset (wdata : Word)
  | rdKeyClr
  | wrKeyClr (wdata : Word)
  | rdKeyData
  | wrKeyData (wdata : Word)
  | rdKeyLen
  | wrKeyLen (wdata : Word)
  | rdCounterLo
  | wrCounterLo (wdata : Word)
  | rdCounterHi
  | wrCounterHi (wdata : Word)
  | rdT0Lo
  | wrT0Lo (wdata : Word)
  | rdT0Hi
  | wrT0Hi (wdata : Word)
  | rdStepLo
  | wrStepLo (wdata : Word)
  | rdStepHi
  | wrStepHi (wdata : Word)
  | rdTimeSampleLo
  | wrTimeSampleLo (wdata : Word)
  | rdTimeSampleHi
  | wrTimeSampleHi (wdata : Word)
  | rdDigestIn0
  | wrDigestIn0 (wdata : Word)
  | rdDigestIn1
  | wrDigestIn1 (wdata : Word)
  | rdDigestIn2
  | wrDigestIn2 (wdata : Word)
  | rdDigestIn3
  | wrDigestIn3 (wdata : Word)
  | rdDigestIn4
  | wrDigestIn4 (wdata : Word)
  deriving DecidableEq, Repr

end Sys2Proof
end

