-- ==== Sys2Proof/WellFormed.lean ====
section
/-! DEFINITION. Which instructions are in canonical form. -/

namespace Sys2Proof

/-- A legal command word: bits 31:4 zero and bits 3:0 in 0..3 (30_encoding.md R92). -/
def legalCmdWord (w : Word) : Bool :=
  w.extractLsb' 4 28 == 0 && (w.extractLsb' 0 4).toNat < 4

/-- An instruction is well formed when it is the canonical name of its word: a write of a legal command word to CMD is
written with that command's own constructor, so `wrCmd` holds only illegal words.  Every other operand is a whole 32-bit
word, and every value of it is admitted (30_encoding.md R96). -/
def Instr.wf : Instr → Bool
  | .wrCmd w => !legalCmdWord w
  | .nop | .genCounter | .genTime | .truncate => true
  | .rdId => true
  | .wrId _ => true
  | .rdConfig => true
  | .wrConfig _ => true
  | .rdCmd => true
  | .rdStatus => true
  | .wrStatus _ => true
  | .rdCode => true
  | .wrCode _ => true
  | .rdSnum => true
  | .wrSnum _ => true
  | .rdOffset => true
  | .wrOffset _ => true
  | .rdKeyClr => true
  | .wrKeyClr _ => true
  | .rdKeyData => true
  | .wrKeyData _ => true
  | .rdKeyLen => true
  | .wrKeyLen _ => true
  | .rdCounterLo => true
  | .wrCounterLo _ => true
  | .rdCounterHi => true
  | .wrCounterHi _ => true
  | .rdT0Lo => true
  | .wrT0Lo _ => true
  | .rdT0Hi => true
  | .wrT0Hi _ => true
  | .rdStepLo => true
  | .wrStepLo _ => true
  | .rdStepHi => true
  | .wrStepHi _ => true
  | .rdTimeSampleLo => true
  | .wrTimeSampleLo _ => true
  | .rdTimeSampleHi => true
  | .wrTimeSampleHi _ => true
  | .rdDigestIn0 => true
  | .wrDigestIn0 _ => true
  | .rdDigestIn1 => true
  | .wrDigestIn1 _ => true
  | .rdDigestIn2 => true
  | .wrDigestIn2 _ => true
  | .rdDigestIn3 => true
  | .wrDigestIn3 _ => true
  | .rdDigestIn4 => true
  | .wrDigestIn4 _ => true

end Sys2Proof
end

