-- ==== Sys2Proof/Decode.lean ====
section
/-! DEFINITION. Decoding of command words and of host transactions, total and rejecting by name; then the encoder,
written from the same tables (30_encoding.md R90 to R98). -/

namespace Sys2Proof

/-- What the 32-bit command word decodes to (30_encoding.md R93). -/
inductive CmdOp where
  | nop
  | genCounter
  | genTime
  | truncate
  | illegal
  deriving DecidableEq, Repr

/-- The command decoder, total on every 32-bit word (30_encoding.md R94). -/
def decodeCmd (w : Word) : CmdOp :=
  if w = 0x00000000#32 then .nop
  else if w = 0x00000001#32 then .genCounter
  else if w = 0x00000002#32 then .genTime
  else if w = 0x00000003#32 then .truncate
  else .illegal

/-- The register of a word slot `off[7:2]`; slots 23 to 63 hold none (30_encoding.md R91; 10_state.md section 3). -/
def regOfSlot : Nat → Option Reg
  | 0 => some .id
  | 1 => some .config
  | 2 => some .cmd
  | 3 => some .status
  | 4 => some .code
  | 5 => some .snum
  | 6 => some .offset
  | 7 => some .keyClr
  | 8 => some .keyData
  | 9 => some .keyLen
  | 10 => some .counterLo
  | 11 => some .counterHi
  | 12 => some .t0Lo
  | 13 => some .t0Hi
  | 14 => some .stepLo
  | 15 => some .stepHi
  | 16 => some .timeSampleLo
  | 17 => some .timeSampleHi
  | 18 => some .digestIn0
  | 19 => some .digestIn1
  | 20 => some .digestIn2
  | 21 => some .digestIn3
  | 22 => some .digestIn4
  | _ => none

/-- The system address of an offset (00_scope.md R8; 20_memory.md R61).  Every rule of the block uses offsets, so no step
reads it (92_eei_decisions.md D1).  The spec gives no width of a system address: it is a natural number here, and
the sum does not wrap (DESIGN CHOICE, unsafe for a claim about addresses that wrap, log entry 17). -/
def systemAddress (off : BitVec 8) : Nat := Config.baseAddr + off.toNat

/-- The offset a system address selects: the window is the 256 bytes from BASE_ADDR (20_memory.md R61; log entry 17). -/
def windowOffset (a : Nat) : Option (BitVec 8) :=
  if Config.baseAddr ≤ a ∧ a < Config.baseAddr + 256 then some (BitVec.ofNat 8 (a - Config.baseAddr)) else none

/-- The offset of a register (10_state.md section 3). -/
def Reg.off : Reg → BitVec 8
  | .id => 0x00#8
  | .config => 0x04#8
  | .cmd => 0x08#8
  | .status => 0x0C#8
  | .code => 0x10#8
  | .snum => 0x14#8
  | .offset => 0x18#8
  | .keyClr => 0x1C#8
  | .keyData => 0x20#8
  | .keyLen => 0x24#8
  | .counterLo => 0x28#8
  | .counterHi => 0x2C#8
  | .t0Lo => 0x30#8
  | .t0Hi => 0x34#8
  | .stepLo => 0x38#8
  | .stepHi => 0x3C#8
  | .timeSampleLo => 0x40#8
  | .timeSampleHi => 0x44#8
  | .digestIn0 => 0x48#8
  | .digestIn1 => 0x4C#8
  | .digestIn2 => 0x50#8
  | .digestIn3 => 0x54#8
  | .digestIn4 => 0x58#8

/-- The instruction a read of a register is. -/
def readInstr : Reg → Instr
  | .id => .rdId
  | .config => .rdConfig
  | .cmd => .rdCmd
  | .status => .rdStatus
  | .code => .rdCode
  | .snum => .rdSnum
  | .offset => .rdOffset
  | .keyClr => .rdKeyClr
  | .keyData => .rdKeyData
  | .keyLen => .rdKeyLen
  | .counterLo => .rdCounterLo
  | .counterHi => .rdCounterHi
  | .t0Lo => .rdT0Lo
  | .t0Hi => .rdT0Hi
  | .stepLo => .rdStepLo
  | .stepHi => .rdStepHi
  | .timeSampleLo => .rdTimeSampleLo
  | .timeSampleHi => .rdTimeSampleHi
  | .digestIn0 => .rdDigestIn0
  | .digestIn1 => .rdDigestIn1
  | .digestIn2 => .rdDigestIn2
  | .digestIn3 => .rdDigestIn3
  | .digestIn4 => .rdDigestIn4

/-- The instruction a write of a word to CMD is: a legal command word is that command's own row, any other word is the
row WR.CMD (30_encoding.md R92 to R94). -/
def writeCmdInstr (w : Word) : Instr :=
  match decodeCmd w with
  | .nop => .nop
  | .genCounter => .genCounter
  | .genTime => .genTime
  | .truncate => .truncate
  | .illegal => .wrCmd w

/-- The instruction a write of a word to a register is. -/
def writeInstr : Reg → Word → Instr
  | .id, w => .wrId w
  | .config, w => .wrConfig w
  | .cmd, w => writeCmdInstr w
  | .status, w => .wrStatus w
  | .code, w => .wrCode w
  | .snum, w => .wrSnum w
  | .offset, w => .wrOffset w
  | .keyClr, w => .wrKeyClr w
  | .keyData, w => .wrKeyData w
  | .keyLen, w => .wrKeyLen w
  | .counterLo, w => .wrCounterLo w
  | .counterHi, w => .wrCounterHi w
  | .t0Lo, w => .wrT0Lo w
  | .t0Hi, w => .wrT0Hi w
  | .stepLo, w => .wrStepLo w
  | .stepHi, w => .wrStepHi w
  | .timeSampleLo, w => .wrTimeSampleLo w
  | .timeSampleHi, w => .wrTimeSampleHi w
  | .digestIn0, w => .wrDigestIn0 w
  | .digestIn1, w => .wrDigestIn1 w
  | .digestIn2, w => .wrDigestIn2 w
  | .digestIn3, w => .wrDigestIn3 w
  | .digestIn4, w => .wrDigestIn4 w

/-- The address check of an access: size first, then alignment, then the slot (20_memory.md R63, R64; the order is
60_exceptions.md R215 (a)). -/
def checkAddress (off : BitVec 8) (size : Size) : Except BusError Reg :=
  if size = .four then
    if off.toNat % 4 = 0 then
      match regOfSlot (off.toNat / 4) with
      | some r => .ok r
      | none => .error .unmapped
    else .error .misaligned
  else .error .narrow

/-- The transaction decoder: total on every transaction, rejecting by name the ones that get SLVERR. -/
def decode (t : Transaction) : Except BusError Instr :=
  match checkAddress t.off t.size with
  | .ok r => .ok (if t.write then writeInstr r t.wdata else readInstr r)
  | .error e => .error e

/-- The transaction `HostRead(off, 4)` (00_scope.md R14). -/
def readAt (off : BitVec 8) : Transaction :=
  { off := off, size := .four, write := false, wdata := 0 }

/-- The transaction `HostWrite(off, 4, w)` (00_scope.md R14). -/
def writeAt (off : BitVec 8) (w : Word) : Transaction :=
  { off := off, size := .four, write := true, wdata := w }

/-- The encoder: the transaction of each instruction, from the offsets of 10_state.md section 3 and the command words of
30_encoding.md R93. -/
def encode : Instr → Transaction
  | .nop => writeAt 0x08 0x00000000#32
  | .genCounter => writeAt 0x08 0x00000001#32
  | .genTime => writeAt 0x08 0x00000002#32
  | .truncate => writeAt 0x08 0x00000003#32
  | .rdId => readAt 0x00
  | .wrId w => writeAt 0x00 w
  | .rdConfig => readAt 0x04
  | .wrConfig w => writeAt 0x04 w
  | .rdCmd => readAt 0x08
  | .wrCmd w => writeAt 0x08 w
  | .rdStatus => readAt 0x0C
  | .wrStatus w => writeAt 0x0C w
  | .rdCode => readAt 0x10
  | .wrCode w => writeAt 0x10 w
  | .rdSnum => readAt 0x14
  | .wrSnum w => writeAt 0x14 w
  | .rdOffset => readAt 0x18
  | .wrOffset w => writeAt 0x18 w
  | .rdKeyClr => readAt 0x1C
  | .wrKeyClr w => writeAt 0x1C w
  | .rdKeyData => readAt 0x20
  | .wrKeyData w => writeAt 0x20 w
  | .rdKeyLen => readAt 0x24
  | .wrKeyLen w => writeAt 0x24 w
  | .rdCounterLo => readAt 0x28
  | .wrCounterLo w => writeAt 0x28 w
  | .rdCounterHi => readAt 0x2C
  | .wrCounterHi w => writeAt 0x2C w
  | .rdT0Lo => readAt 0x30
  | .wrT0Lo w => writeAt 0x30 w
  | .rdT0Hi => readAt 0x34
  | .wrT0Hi w => writeAt 0x34 w
  | .rdStepLo => readAt 0x38
  | .wrStepLo w => writeAt 0x38 w
  | .rdStepHi => readAt 0x3C
  | .wrStepHi w => writeAt 0x3C w
  | .rdTimeSampleLo => readAt 0x40
  | .wrTimeSampleLo w => writeAt 0x40 w
  | .rdTimeSampleHi => readAt 0x44
  | .wrTimeSampleHi w => writeAt 0x44 w
  | .rdDigestIn0 => readAt 0x48
  | .wrDigestIn0 w => writeAt 0x48 w
  | .rdDigestIn1 => readAt 0x4C
  | .wrDigestIn1 w => writeAt 0x4C w
  | .rdDigestIn2 => readAt 0x50
  | .wrDigestIn2 w => writeAt 0x50 w
  | .rdDigestIn3 => readAt 0x54
  | .wrDigestIn3 w => writeAt 0x54 w
  | .rdDigestIn4 => readAt 0x58
  | .wrDigestIn4 w => writeAt 0x58 w

/-! ### Numbered bits

The spec numbers the bits of a command word (R92) and, in the table, the eight bits of `off`; it gives the other F-BUS
fields no bit numbers.  This model's numbering of a whole transaction (DESIGN CHOICE, log entry 5; safe: the machine
itself runs on transaction records) is: `off` bits 7:0, `write` bit 8, size code bits 10:9 (0 is 4 bytes, 1 is 1 byte,
2 is 2 bytes), bits 15:11 zero, `wdata` bits 47:16. -/

/-- The size of a size code of this model's bit numbering; code 3 is none. -/
def sizeOfCode : Nat → Option Size
  | 0 => some .four
  | 1 => some .one
  | 2 => some .two
  | _ => none

/-- The size code of a size in this model's bit numbering. -/
def codeOfSize : Size → Nat
  | .four => 0
  | .one => 1
  | .two => 2

/-- The transaction whose numbered bits are `w`; none where a bit outside the layout is set. -/
def transactionOfBits (w : Nat) : Option Transaction :=
  match sizeOfCode (w / 2 ^ 9 % 4) with
  | none => none
  | some z =>
    if w / 2 ^ 11 % 2 ^ 5 = 0 ∧ w < 2 ^ 48 then
      some { off := BitVec.ofNat 8 w, size := z, write := w / 2 ^ 8 % 2 == 1, wdata := BitVec.ofNat 32 (w / 2 ^ 16) }
    else none

/-- The numbered bits of a transaction, the inverse of `transactionOfBits`. -/
def bitsOfTransaction (t : Transaction) : Nat :=
  t.off.toNat + t.write.toNat * 2 ^ 8 + codeOfSize t.size * 2 ^ 9 + t.wdata.toNat * 2 ^ 16

/-- The transaction of a table word: a word of 32 bits is a command word, written to CMD (30_encoding.md R90); a word of
any other length is a transaction in this model's bit numbering, its bits above `nbits` zero. -/
def transactionOfWord (nbits w : Nat) : Option Transaction :=
  if nbits = 32 then some (writeAt 0x08 (BitVec.ofNat 32 w)) else transactionOfBits (w % 2 ^ nbits)

/-- The instruction the decoder reads from a table word. -/
def decodeTableWord (nbits w : Nat) : Option Instr :=
  match transactionOfWord nbits w with
  | none => none
  | some t =>
    match decode t with
    | .ok i => some i
    | .error _ => none

end Sys2Proof
end

