-- ==== Sys2Proof/Machine/State.lean ====
section
/-! DEFINITION. The state as plain data, the reasons of a stop, and the state after reset. -/

namespace Sys2Proof.Machine

/-- The command error codes, STATUS.ERRCODE (60_exceptions.md R210).  Codes 6 to 15 are never produced (30_encoding.md
R97 (f)), so the type has none. -/
inductive ErrCode where
  | none             -- 0
  | hmacInit         -- 1
  | invalidDigits    -- 2
  | stepZero         -- 3
  | timeBeforeEpoch  -- 4
  | illegalCmd       -- 5
  deriving DecidableEq, Repr

/-- The inputs GEN_COUNTER and GEN_TIME latch (10_state.md R36): `key` is `st.key_buf[0 .. st.key_len]` at acceptance. -/
structure HmacJob where
  digits : Digits
  msg    : Factor
  key    : List Byte
  keyOvf : Bool
  deriving DecidableEq, Repr

/-- The latch record of a command in flight, one shape per op (10_state.md R36). -/
inductive Latch where
  | genCounter (job : HmacJob)
  | genTime    (job : HmacJob)
  | truncate   (digits : Digits) (digest : Digest)
  deriving DecidableEq, Repr

/-- The architectural state of the block, the spec's `st` (10_state.md R22, "It is complete").  `key` holds the first
`key_len` bytes of the key buffer; `key_buf`, `key_len` and `busy` are the views below (log entry 6). -/
structure Block where
  digits     : BitVec 4
  key        : List Byte
  keyOvf     : Bool
  counter    : Dword
  t0         : Dword
  step       : Dword
  timeSample : Dword
  digestIn   : Digest
  code       : Word
  snum       : Word
  offset     : BitVec 4
  done       : Bool
  err        : Bool
  busyWr     : Bool
  errcode    : ErrCode
  latch      : Option Latch
  deriving DecidableEq, Repr

/-- `st.busy`: a command is in flight exactly while the latch holds a record (10_state.md R36, R45). -/
def Block.busy (b : Block) : Bool := b.latch.isSome

/-- `st.key_len` (10_state.md R22). -/
def Block.keyLen (b : Block) : Nat := b.key.length

/-- `st.key_buf`, KEY_CAP bytes: the bytes at index `key_len` and above are 0 (10_state.md R39). -/
def Block.keyBuf (cap : Nat) (b : Block) : List Byte := b.key ++ List.replicate (cap - b.key.length) 0#8

/-- The block right after reset (70_reset_and_hazards.md R240). -/
def Block.reset : Block :=
  { digits := 0xF#4
    key := []
    keyOvf := false
    counter := 0
    t0 := 0
    step := 0
    timeSample := 0
    digestIn := Vector.replicate 20 0#8
    code := 0
    snum := 0
    offset := 0
    done := false
    err := false
    busyWr := false
    errcode := .none
    latch := none }

/-- The answer to one transaction (20_memory.md R62): OKAY with the data read, OKAY to a write (the spec states no data
with it), or SLVERR. -/
inductive BusResp where
  | okayRead (rdata : Word)
  | okayWrite
  | slverr
  deriving DecidableEq, Repr

/-- The faults of the machine. -/
inductive Fault where
  /-- Raised by the host step whose transaction the block answers with SLVERR, for the reason named (20_memory.md R65;
  60_exceptions.md R216).  It is RECORDED in `State.hostFault` and never cleared, and the machine goes on, because the
  block never stops answering (R211); no step ends in it.  Safe. -/
  | slverr (why : BusError)
  deriving DecidableEq, Repr

/-- Why an instruction has no meaning. -/
inductive Refusal where
  /-- Raised by an arm of `exec` whose instruction has no meaning yet, under its mnemonic.  Safe.  No arm answers it. -/
  | notModelled (mnemonic : String)
  deriving DecidableEq, Repr

/-- The whole machine: the block, its parameter KEY_CAP, and the outside world as plain data. -/
structure State where
  /-- KEY_CAP, the open parameter of 00_scope.md R8; no step changes it (log entry 2). -/
  keyCap    : Nat
  /-- The block's architectural state, the spec's `st`. -/
  st        : Block
  /-- The statements the host still issues, all masters in one order (20_memory.md R77; log entry 8). -/
  program   : List HostStmt
  /-- The last answer on the bus (log entry 10). -/
  resp      : Option BusResp
  /-- The first SLVERR the host received, never cleared (60_exceptions.md R216; log entry 1). -/
  hostFault : Option Fault
  /-- The levels of the reset input at the coming steps, not asserted once exhausted (log entry 9). -/
  resetIn   : List Bool
  /-- The scripted samples of the time input, then Config.nowSec (log entry 3). -/
  nowIn     : List Dword
  /-- The scripted latencies of the coming commands, then Config.latency (log entry 4). -/
  latencyIn : List Nat
  /-- The number of draws taken from Config's free values. -/
  draws     : Nat
  /-- The host transactions still to come before the completion, none where not drawn (log entry 4). -/
  wait      : Option Nat
  deriving DecidableEq, Repr

/-- The machine right after reset: the block as 70_reset_and_hazards.md R240 says, KEY_CAP at its reference value
(00_scope.md R8), and the model's own fields at the values log entry 15 names. -/
def State.reset : State :=
  { keyCap := Config.referenceKeyCap
    st := Block.reset
    program := []
    resp := none
    hostFault := none
    resetIn := []
    nowIn := []
    latencyIn := []
    draws := 0
    wait := none }

end Sys2Proof.Machine
end

