-- ==== Sys2Proof/Machine/Operands.lean ====
section
/-! DEFINITION. Byte order, halves of 64-bit registers, digest words, and the operands a command assembles at acceptance
(00_scope.md R12; 30_encoding.md R95, R96). -/

namespace Sys2Proof.Machine

/-- Byte `k` of a value, byte 0 the least significant. -/
def byteOf {n : Nat} (v : BitVec n) (k : Nat) : Byte := v.extractLsb' (8 * k) 8

/-- `be64(v)`: 8 bytes, the most significant first (00_scope.md R12). -/
def be64 (v : Dword) : Factor :=
  #v[byteOf v 7, byteOf v 6, byteOf v 5, byteOf v 4, byteOf v 3, byteOf v 2, byteOf v 1, byteOf v 0]

/-- `be32(v)`: 4 bytes, the most significant first (00_scope.md R12). -/
def be32 (v : Word) : Window := #v[byteOf v 3, byteOf v 2, byteOf v 1, byteOf v 0]

/-- `be32dec(b0, b1, b2, b3)` (00_scope.md R12). -/
def be32dec (b0 b1 b2 b3 : Byte) : Word :=
  (b0.setWidth 32 <<< 24) ||| (b1.setWidth 32 <<< 16) ||| (b2.setWidth 32 <<< 8) ||| b3.setWidth 32

/-- Bits 31:0 of a 64-bit register. -/
def lowHalf (v : Dword) : Word := v.extractLsb' 0 32

/-- Bits 63:32 of a 64-bit register. -/
def highHalf (v : Dword) : Word := v.extractLsb' 32 32

/-- The value with bits 31:0 replaced (10_state.md R33, the _LO formula). -/
def setLow (v : Dword) (w : Word) : Dword := (v &&& 0xFFFFFFFF00000000#64) ||| w.setWidth 64

/-- The value with bits 63:32 replaced (10_state.md R33, the _HI formula). -/
def setHigh (v : Dword) (w : Word) : Dword := (v &&& 0x00000000FFFFFFFF#64) ||| (w.setWidth 64 <<< 32)

/-- The word DIGEST_INk reads as: bytes 4k to 4k+3, big-endian (10_state.md R38, R40). -/
def digestWord (d : Digest) (k : Fin 5) : Word :=
  be32dec d[4 * k.val] d[4 * k.val + 1] d[4 * k.val + 2] d[4 * k.val + 3]

/-- The digest with the four bytes of DIGEST_INk replaced (10_state.md R38). -/
def setDigestWord (d : Digest) (k : Fin 5) (w : Word) : Digest :=
  let d := d.set (4 * k.val) (byteOf w 3)
  let d := d.set (4 * k.val + 1) (byteOf w 2)
  let d := d.set (4 * k.val + 2) (byteOf w 1)
  d.set (4 * k.val + 3) (byteOf w 0)

/-- The digit count a command may use: DIGITS where it is 0 to 9 (10_state.md R24; 43_commands.md R181 (b)). -/
def digitCount (d : BitVec 4) : Option Digits :=
  if h : d.toNat < 10 then some ⟨d.toNat, h⟩ else none

/-- What GEN_COUNTER and GEN_TIME latch, for the moving factor `c` (10_state.md R36). -/
def hmacJob (d : Digits) (c : Factor) (b : Block) : HmacJob :=
  { digits := d, msg := c, key := b.key, keyOvf := b.keyOvf }

/-- PRODUCE_COUNTER: the moving factor and the block with the counter advanced, wrapping (40_byte_source.md R111). -/
def produceCounter (b : Block) : Factor × Block := (be64 b.counter, { b with counter := b.counter + 1 })

/-- PRODUCE_TIME's arithmetic for a sample `n` not before the epoch and a non-zero step (40_byte_source.md R114, R118). -/
def timeFactor (n t0 step : Dword) : Factor := be64 ((n - t0) / step)

end Sys2Proof.Machine
end

