-- ==== Sys2Proof/Machine/Datapath.lean ====
section
/-! DEFINITION. The truncation and reduction datapath: offset, window, mask, big-endian packer, modulo unit
(42_truncation_reduction.md R160 to R170). -/

namespace Sys2Proof.Machine

/-- SELECT_OFFSET: the low 4 bits of the last byte (42_truncation_reduction.md R160). -/
def selectOffset (hs : Digest) : BitVec 4 := (hs[19] &&& 0x0F#8).setWidth 4

/-- The bounds law, proved and not assumed: the window's last index is inside the digest (42_truncation_reduction.md
R163). -/
theorem window_index_lt (offset : BitVec 4) (k : Nat) (hk : k < 4) : offset.toNat + k < 20 := by
  have := offset.isLt
  omega

/-- SELECT_WINDOW: `HS[offset .. offset+4]` (42_truncation_reduction.md R161). -/
def selectWindow (hs : Digest) (offset : BitVec 4) : Window :=
  #v[hs[offset.toNat]'(window_index_lt offset 0 (by decide)),
     hs[offset.toNat + 1]'(window_index_lt offset 1 (by decide)),
     hs[offset.toNat + 2]'(window_index_lt offset 2 (by decide)),
     hs[offset.toNat + 3]'(window_index_lt offset 3 (by decide))]

/-- MASK: clears bit 7 of the first byte (42_truncation_reduction.md R162). -/
def maskWindow (w : Window) : Window := #v[w[0] &&& 0x7F#8, w[1], w[2], w[3]]

/-- PACK: the masked bytes as a big-endian number (42_truncation_reduction.md R164). -/
def packWindow (p : Window) : Word := be32dec p[0] p[1] p[2] p[3]

/-- The modulus table MOD(d) (42_truncation_reduction.md R165). -/
def modulus : Digits → Word
  | 0 => 0x00000001
  | 1 => 0x0000000A
  | 2 => 0x00000064
  | 3 => 0x000003E8
  | 4 => 0x00002710
  | 5 => 0x000186A0
  | 6 => 0x000F4240
  | 7 => 0x00989680
  | 8 => 0x05F5E100
  | 9 => 0x3B9ACA00

/-- REDUCE: the exact remainder (42_truncation_reduction.md R166). -/
def reduce (snum : Word) (d : Digits) : Word := snum % modulus d

/-- The datapath's three results. -/
structure DatapathResult where
  offset : BitVec 4
  snum   : Word
  code   : Word
  deriving DecidableEq, Repr

/-- The whole datapath as one total function (42_truncation_reduction.md R166). -/
def truncateReduce (hs : Digest) (d : Digits) : DatapathResult :=
  let offset := selectOffset hs
  let snum := packWindow (maskWindow (selectWindow hs offset))
  { offset := offset, snum := snum, code := reduce snum d }

end Sys2Proof.Machine
end

