-- ==== Sys2Proof/Machine/Flags.lean ====
section
/-! DEFINITION. The status flags, the block's only flags (10_state.md R26, R43). -/

namespace Sys2Proof.Machine

/-- The 4-bit STATUS.ERRCODE of an error (60_exceptions.md R210). -/
def errBits : ErrCode → BitVec 4
  | .none => 0
  | .hmacInit => 1
  | .invalidDigits => 2
  | .stepZero => 3
  | .timeBeforeEpoch => 4
  | .illegalCmd => 5

/-- One flag as a 32-bit word, 0 or 1. -/
def flagWord (f : Bool) : Word := (BitVec.ofBool f).setWidth 32

/-- STATUS: BUSY bit 0, DONE bit 1, ERR bit 2, BUSY_WR bit 3, ERRCODE bits 7:4, the rest 0 (10_state.md R26). -/
def statusWord (b : Block) : Word :=
  ((errBits b.errcode).setWidth 32 <<< 4) ||| (flagWord b.busyWr <<< 3) ||| (flagWord b.err <<< 2) |||
    (flagWord b.done <<< 1) ||| flagWord b.busy

/-- KEY_LEN: LEN bits 30:0, OVF bit 31 (10_state.md R32). -/
def keyLenWord (b : Block) : Word := (flagWord b.keyOvf <<< 31) ||| BitVec.ofNat 32 b.keyLen

/-- The clearing every non-NOP acceptance begins with, before any check (43_commands.md R181 (a)). -/
def clearForAcceptance (b : Block) : Block :=
  { b with done := false, err := false, errcode := .none, busyWr := false, code := 0, snum := 0, offset := 0 }

end Sys2Proof.Machine
end

