-- ==== Sys2Proof/Machine/HashEngine.lean ====
section
/-! DEFINITION. The HMAC-SHA1 hash engine in form (b) of 41_hmac_sha1.md R134: the algorithm of R135 to R142, which the
spec supplies from general knowledge (log entry 7).  It is a pure function; its internal words are no state (R144). -/

namespace Sys2Proof.Machine

/-- `rotl32(x, n)` for 0 < n < 32 (00_scope.md R11). -/
def rotl32 (x : Word) (n : Nat) : Word := (x <<< n) ||| (x >>> (32 - n))

/-- The five chaining words (41_hmac_sha1.md R141). -/
structure ShaWords where
  a : Word
  b : Word
  c : Word
  d : Word
  e : Word
  deriving DecidableEq, Repr

/-- The initial value H0..H4 (41_hmac_sha1.md R138). -/
def shaInit : ShaWords := ⟨0x67452301, 0xEFCDAB89, 0x98BADCFE, 0x10325476, 0xC3D2E1F0⟩

/-- The round constant K(t) (41_hmac_sha1.md R138). -/
def shaK (t : Nat) : Word :=
  if t < 20 then 0x5A827999 else if t < 40 then 0x6ED9EBA1 else if t < 60 then 0x8F1BBCDC else 0xCA62C1D6

/-- The round function f(t, b, c, d) (41_hmac_sha1.md R139). -/
def shaF (t : Nat) (b c d : Word) : Word :=
  if t < 20 then (b &&& c) ||| (~~~b &&& d)
  else if t < 40 then b ^^^ c ^^^ d
  else if t < 60 then (b &&& c) ||| (b &&& d) ||| (c &&& d)
  else b ^^^ c ^^^ d

/-- One round (41_hmac_sha1.md R141). -/
def shaRound (t : Nat) (w : Word) (h : ShaWords) : ShaWords :=
  { a := rotl32 h.a 5 + shaF t h.b h.c h.d + h.e + shaK t + w
    b := h.a
    c := rotl32 h.b 30
    d := h.c
    e := h.d }

/-- The rounds over a list of schedule words, from round `t` on. -/
def shaRounds : Nat → List Word → ShaWords → ShaWords
  | _, [], h => h
  | t, w :: ws, h => shaRounds (t + 1) ws (shaRound t w h)

/-- `n` more schedule words in front of those so far, the newest first, so that W[t-3] stands at index 2
(41_hmac_sha1.md R140). -/
def extendSchedule : Nat → List Word → List Word
  | 0, ws => ws
  | n + 1, ws =>
    extendSchedule n (rotl32 (ws.getD 2 0 ^^^ ws.getD 7 0 ^^^ ws.getD 13 0 ^^^ ws.getD 15 0) 1 :: ws)

/-- The big-endian words of a block's bytes (41_hmac_sha1.md R140). -/
def wordsOfBytes : List Byte → List Word
  | b0 :: b1 :: b2 :: b3 :: rest => be32dec b0 b1 b2 b3 :: wordsOfBytes rest
  | _ => []

/-- The message schedule W[0..79] of a 64-byte block (41_hmac_sha1.md R140). -/
def schedule (block : List Byte) : List Word := (extendSchedule 64 (wordsOfBytes block).reverse).reverse

/-- The compression of one 64-byte block (41_hmac_sha1.md R141). -/
def compress (h : ShaWords) (block : List Byte) : ShaWords :=
  let r := shaRounds 0 (schedule block) h
  ⟨h.a + r.a, h.b + r.b, h.c + r.c, h.d + r.d, h.e + r.e⟩

/-- The number of zero bytes of the padding: the least `z` that makes the padded length a multiple of 64
(41_hmac_sha1.md R137). -/
def padZeros (len : Nat) : Nat := (64 - (len + 9) % 64) % 64

/-- `pad(X)` (41_hmac_sha1.md R137). -/
def pad (x : List Byte) : List Byte :=
  x ++ [0x80#8] ++ List.replicate (padZeros x.length) 0x00#8 ++ (be64 (BitVec.ofNat 64 (8 * x.length))).toList

/-- The first `n` 64-byte blocks of a byte string. -/
def blocks : Nat → List Byte → List (List Byte)
  | 0, _ => []
  | n + 1, x => x.take 64 :: blocks n (x.drop 64)

/-- The 64-byte blocks of the padded string, in order (41_hmac_sha1.md R137, R141). -/
def paddedBlocks (x : List Byte) : List (List Byte) := blocks ((pad x).length / 64) (pad x)

/-- The chaining words after the last block (41_hmac_sha1.md R141). -/
def shaWords (x : List Byte) : ShaWords := (paddedBlocks x).foldl compress shaInit

/-- The output byte order: be32 of h0 to h4 (41_hmac_sha1.md R141, R142). -/
def digestOfWords (h : ShaWords) : Digest := be32 h.a ++ be32 h.b ++ be32 h.c ++ be32 h.d ++ be32 h.e

/-- SHA-1 (41_hmac_sha1.md R137 to R142). -/
def sha1 (x : List Byte) : Digest := digestOfWords (shaWords x)

/-- `derive_K0(K)`, 64 bytes: a key over 64 bytes is hashed first, and zeros fill the rest (41_hmac_sha1.md R136). -/
def deriveK0 (key : List Byte) : List Byte :=
  let k := if key.length > 64 then (sha1 key).toList else key
  k ++ List.replicate (64 - k.length) 0x00#8

/-- `HMAC_SHA1(K, M)` for a message of any length (41_hmac_sha1.md R135). -/
def hmacSha1Bytes (key msg : List Byte) : Digest :=
  let k0 := deriveK0 key
  let inner := sha1 (k0.map (· ^^^ 0x36#8) ++ msg)
  sha1 (k0.map (· ^^^ 0x5C#8) ++ inner.toList)

/-- `HMAC_SHA1(K, M)` inside the block: the message is the 8-byte moving factor (41_hmac_sha1.md R130). -/
def hmacSha1 (key : List Byte) (msg : Factor) : Digest := hmacSha1Bytes key msg.toList

end Sys2Proof.Machine
end

