-- ==== Sys2Proof/Machine/Ops.lean ====
section
/-! DEFINITION. The shared operations: the read function, the bus answers, the command-error report (the block's
"exception", 60_exceptions.md R212) and the clearing that ends it, acceptance, completion and reset. -/

namespace Sys2Proof.Machine

/-- The block changed by `f`, everything else as it is. -/
def State.onSt (f : Block → Block) (s : State) : State := { s with st := f s.st }

/-- The read function `reg(off)` (10_state.md R40). -/
def regRead : Reg → Block → Word
  | .id, _ => 0x4F545031
  | .config, b => b.digits.setWidth 32
  | .cmd, _ => 0
  | .status, b => statusWord b
  | .code, b => b.code
  | .snum, b => b.snum
  | .offset, b => b.offset.setWidth 32
  | .keyClr, _ => 0
  | .keyData, _ => 0
  | .keyLen, b => keyLenWord b
  | .counterLo, _ => 0
  | .counterHi, _ => 0
  | .t0Lo, b => lowHalf b.t0
  | .t0Hi, b => highHalf b.t0
  | .stepLo, b => lowHalf b.step
  | .stepHi, b => highHalf b.step
  | .timeSampleLo, b => lowHalf b.timeSample
  | .timeSampleHi, b => highHalf b.timeSample
  | .digestIn0, b => digestWord b.digestIn 0
  | .digestIn1, b => digestWord b.digestIn 1
  | .digestIn2, b => digestWord b.digestIn 2
  | .digestIn3, b => digestWord b.digestIn 3
  | .digestIn4, b => digestWord b.digestIn 4

/-- The data the host sees with an answer.  With SLVERR it is 0: for a read 20_memory.md R65 says so; for a write neither
R62 nor R65 states any data, and the 0 here is the model's (DESIGN CHOICE, unsafe for a claim about that data, log
entry 10).  The OKAY of a write carries none (DESIGN CHOICE, safe, log entry 10). -/
def BusResp.rdata : BusResp → Option Word
  | .okayRead w => some w
  | .okayWrite => none
  | .slverr => some 0

/-- The answer of a transaction reaches the host. -/
def State.answer (r : BusResp) (s : State) : State := { s with resp := some r }

/-! ### Host transactions -/

/-- An admitted read: OKAY(reg(off)), no side effect, IDLE or BUSY (20_memory.md R67). -/
def hostRead (r : Reg) (s : State) : Host.Outcome State Fault Refusal :=
  .next (s.answer (.okayRead (regRead r s.st)))

/-- The write while BUSY: ignored but for BUSY_WR (20_memory.md R66). -/
def noteBusyWrite (b : Block) : Block := { b with busyWr := true }

/-- An admitted write with effect `f` when IDLE: OKAY always, and while BUSY the ignored write instead (20_memory.md R66,
R68; 10_state.md R41). -/
def hostAccess (f : State → State) (s : State) : Host.Outcome State Fault Refusal :=
  .next ((if s.st.busy then s.onSt noteBusyWrite else f s).answer .okayWrite)

/-- An admitted write whose effect is on the block's state alone. -/
def hostWrite (f : Block → Block) (s : State) : Host.Outcome State Fault Refusal := hostAccess (State.onSt f) s

/-- `raise BusError()`: SLVERR and no change in the block, and the host records the fault, which is never cleared
(20_memory.md R65; 60_exceptions.md R216; log entry 1). -/
def busError (e : BusError) (s : State) : State :=
  { s with resp := some .slverr, hostFault := s.hostFault.or (some (.slverr e)) }

/-! ### The key -/

/-- KEY_CLR: the buffer zeroised, KEY_LEN and OVF cleared (10_state.md R30). -/
def clearKey (b : Block) : Block := { b with key := [], keyOvf := false }

/-- KEY_DATA: the byte appended while the buffer has room, else OVF set and the byte dropped (10_state.md R31). -/
def appendKeyByte (cap : Nat) (k : Byte) (b : Block) : Block :=
  if b.keyLen < cap then { b with key := b.key ++ [k] } else { b with keyOvf := true }

/-! ### The command error report, and acceptance -/

/-- `raise CmdError(e)`: DONE, ERR and ERRCODE report it, BUSY and the latch are cleared, nothing else changes
(60_exceptions.md R212). -/
def cmdError (e : ErrCode) (b : Block) : Block :=
  { b with done := true, err := true, errcode := e, latch := none }

/-- Entering BUSY with a full latch (43_commands.md R181 (c)). -/
def enterBusy (l : Latch) (b : Block) : Block := { b with latch := some l }

/-- The value the next sample of `now_sec` has: a scripted one, else a free value (40_byte_source.md R116; log entry 3). -/
def sampleValue (s : State) : Dword :=
  match s.nowIn with
  | n :: _ => n
  | [] => Config.nowSec s.draws

/-- The state after one sample of `now_sec` is taken: one scripted sample or one draw is used up. -/
def takeSample (s : State) : State :=
  match s.nowIn with
  | _ :: rest => { s with nowIn := rest }
  | [] => { s with draws := s.draws + 1 }

/-- The part of acceptance every legal non-NOP command shares: the clearing, then the digits check, then the command's
own part (43_commands.md R180, R181). -/
def acceptChecked (own : Digits → State → State) (s : State) : State :=
  let s := s.onSt clearForAcceptance
  match digitCount s.st.digits with
  | none => s.onSt (cmdError .invalidDigits)
  | some d => own d s

/-- GEN_COUNTER's own part: the counter is read and advanced, and the latch written (43_commands.md R184). -/
def acceptCounter (d : Digits) (s : State) : State :=
  s.onSt fun b =>
    let (c, b) := produceCounter b
    enterBusy (.genCounter (hmacJob d c b)) b

/-- GEN_TIME's part after the sample `n`: TIME_SAMPLE written, the epoch check, then the latch (43_commands.md R187). -/
def acceptTimeAt (n : Dword) (d : Digits) (b : Block) : Block :=
  let b := { b with timeSample := n }
  if n < b.t0 then cmdError .timeBeforeEpoch b
  else enterBusy (.genTime (hmacJob d (timeFactor n b.t0 b.step) b)) b

/-- GEN_TIME's own part: the step check comes before the time input is sampled (43_commands.md R187; 40_byte_source.md
R115). -/
def acceptTime (d : Digits) (s : State) : State :=
  if s.st.step = 0 then s.onSt (cmdError .stepZero)
  else (takeSample s).onSt (acceptTimeAt (sampleValue s) d)

/-- TRUNCATE's own part: the digest is latched (43_commands.md R190). -/
def acceptTruncate (d : Digits) (s : State) : State :=
  s.onSt fun b => enterBusy (.truncate d b.digestIn) b

/-- The acceptance of an illegal word: the clearing, then ILLEGAL_CMD (43_commands.md R193). -/
def acceptIllegal (s : State) : State :=
  s.onSt fun b => cmdError .illegalCmd (clearForAcceptance b)

/-- `accept(w)`, total on every word (43_commands.md R180). -/
def acceptWord (w : Word) (s : State) : State :=
  match decodeCmd w with
  | .nop => s
  | .illegal => acceptIllegal s
  | .genCounter => acceptChecked acceptCounter s
  | .genTime => acceptChecked acceptTime s
  | .truncate => acceptChecked acceptTruncate s

/-! ### Completion -/

/-- A successful completion with digest `hs`: the results written, DONE set, BUSY cleared, in one step
(43_commands.md R196; 42_truncation_reduction.md R170). -/
def finish (d : Digits) (hs : Digest) (b : Block) : Block :=
  let r := truncateReduce hs d
  { b with
    offset := r.offset, snum := r.snum, code := r.code
    done := true, err := false, errcode := .none, latch := none }

/-- The completion of a hashing command: HMAC_INIT where key bytes had been dropped, else the datapath on the HMAC
(41_hmac_sha1.md R132, R133; 43_commands.md R196). -/
def completeJob (j : HmacJob) (b : Block) : Block :=
  if j.keyOvf then cmdError .hmacInit b else finish j.digits (hmacSha1 j.key j.msg) b

/-- The completion of a latch record; it reads the latch alone (43_commands.md R196). -/
def completeLatch : Latch → Block → Block
  | .genCounter j, b => completeJob j b
  | .genTime j, b => completeJob j b
  | .truncate d hs, b => finish d hs b

/-- The engine's step (43_commands.md R196): no effect when IDLE, where it is not enabled (R195). -/
def complete (s : State) : State :=
  match s.st.latch with
  | none => s
  | some l => { s.onSt (completeLatch l) with wait := none }

/-! ### Reset -/

/-- The reset input asserted: the block's state to its reset values, whatever it was doing; an in-flight command is
abandoned (70_reset_and_hazards.md R240, R241).  The host, the parameter and the inputs are not the block's
(log entry 9). -/
def resetBlock (s : State) : State := { s with st := Block.reset, wait := none }

end Sys2Proof.Machine
end

