-- ==== Sys2Proof/Machine/Commands.lean ====
section
/-! DEFINITION. The meanings of the CMD words: the acceptance step of each command when IDLE, the ignored write of
20_memory.md R66 while BUSY.  The completion step is `complete` of Ops.lean, run by the engine (43_commands.md R196). -/

namespace Sys2Proof.Machine

/-- NOP (43_commands.md R183): no effect, and it clears no flag. -/
def execNop (s : State) : Host.Outcome State Fault Refusal := hostAccess id s

/-- GEN_COUNTER acceptance (43_commands.md R184). -/
def execGenCounter (s : State) : Host.Outcome State Fault Refusal := hostAccess (acceptChecked acceptCounter) s

/-- GEN_TIME acceptance (43_commands.md R187). -/
def execGenTime (s : State) : Host.Outcome State Fault Refusal := hostAccess (acceptChecked acceptTime) s

/-- TRUNCATE acceptance (43_commands.md R190). -/
def execTruncate (s : State) : Host.Outcome State Fault Refusal := hostAccess (acceptChecked acceptTruncate) s

/-- WR.CMD: the acceptance of the word written (43_commands.md R180); an illegal word is rejected with ILLEGAL_CMD
(R193). -/
def execWrCmd (w : Word) (s : State) : Host.Outcome State Fault Refusal := hostAccess (acceptWord w) s

end Sys2Proof.Machine
end

