-- ==== Sys2Proof/Machine/ReadRegs.lean ====
section
/-! DEFINITION. The meanings of the register reads, rows RD.*: each answers OKAY with `reg(off)` of 10_state.md R40 and
changes nothing in the block, IDLE or BUSY (20_memory.md R67). -/

namespace Sys2Proof.Machine

/-- RD.ID (10_state.md R40, R23). -/
def execRdId (s : State) : Host.Outcome State Fault Refusal := hostRead .id s

/-- RD.CONFIG (10_state.md R40, R24). -/
def execRdConfig (s : State) : Host.Outcome State Fault Refusal := hostRead .config s

/-- RD.CMD (10_state.md R40, R25). -/
def execRdCmd (s : State) : Host.Outcome State Fault Refusal := hostRead .cmd s

/-- RD.STATUS (10_state.md R40, R26). -/
def execRdStatus (s : State) : Host.Outcome State Fault Refusal := hostRead .status s

/-- RD.CODE (10_state.md R40, R27). -/
def execRdCode (s : State) : Host.Outcome State Fault Refusal := hostRead .code s

/-- RD.SNUM (10_state.md R40, R28). -/
def execRdSnum (s : State) : Host.Outcome State Fault Refusal := hostRead .snum s

/-- RD.OFFSET (10_state.md R40, R29). -/
def execRdOffset (s : State) : Host.Outcome State Fault Refusal := hostRead .offset s

/-- RD.KEY_CLR (10_state.md R40, R30). -/
def execRdKeyClr (s : State) : Host.Outcome State Fault Refusal := hostRead .keyClr s

/-- RD.KEY_DATA (10_state.md R40, R31). -/
def execRdKeyData (s : State) : Host.Outcome State Fault Refusal := hostRead .keyData s

/-- RD.KEY_LEN (10_state.md R40, R32). -/
def execRdKeyLen (s : State) : Host.Outcome State Fault Refusal := hostRead .keyLen s

/-- RD.COUNTER_LO (10_state.md R40, R33). -/
def execRdCounterLo (s : State) : Host.Outcome State Fault Refusal := hostRead .counterLo s

/-- RD.COUNTER_HI (10_state.md R40, R33). -/
def execRdCounterHi (s : State) : Host.Outcome State Fault Refusal := hostRead .counterHi s

/-- RD.T0_LO (10_state.md R40, R34). -/
def execRdT0Lo (s : State) : Host.Outcome State Fault Refusal := hostRead .t0Lo s

/-- RD.T0_HI (10_state.md R40, R34). -/
def execRdT0Hi (s : State) : Host.Outcome State Fault Refusal := hostRead .t0Hi s

/-- RD.STEP_LO (10_state.md R40, R35). -/
def execRdStepLo (s : State) : Host.Outcome State Fault Refusal := hostRead .stepLo s

/-- RD.STEP_HI (10_state.md R40, R35). -/
def execRdStepHi (s : State) : Host.Outcome State Fault Refusal := hostRead .stepHi s

/-- RD.TIME_SAMPLE_LO (10_state.md R40, R37). -/
def execRdTimeSampleLo (s : State) : Host.Outcome State Fault Refusal := hostRead .timeSampleLo s

/-- RD.TIME_SAMPLE_HI (10_state.md R40, R37). -/
def execRdTimeSampleHi (s : State) : Host.Outcome State Fault Refusal := hostRead .timeSampleHi s

/-- RD.DIGEST_IN0 (10_state.md R40, R38). -/
def execRdDigestIn0 (s : State) : Host.Outcome State Fault Refusal := hostRead .digestIn0 s

/-- RD.DIGEST_IN1 (10_state.md R40, R38). -/
def execRdDigestIn1 (s : State) : Host.Outcome State Fault Refusal := hostRead .digestIn1 s

/-- RD.DIGEST_IN2 (10_state.md R40, R38). -/
def execRdDigestIn2 (s : State) : Host.Outcome State Fault Refusal := hostRead .digestIn2 s

/-- RD.DIGEST_IN3 (10_state.md R40, R38). -/
def execRdDigestIn3 (s : State) : Host.Outcome State Fault Refusal := hostRead .digestIn3 s

/-- RD.DIGEST_IN4 (10_state.md R40, R38). -/
def execRdDigestIn4 (s : State) : Host.Outcome State Fault Refusal := hostRead .digestIn4 s

end Sys2Proof.Machine
end

