-- ==== Sys2Proof/Machine/WriteRegs.lean ====
section
/-! DEFINITION. The meanings of the register writes, rows WR.*, but for CMD (Commands.lean): when IDLE the effect 10_state.md
R41 names, OKAY always; while BUSY the ignored write of 20_memory.md R66. -/

namespace Sys2Proof.Machine

/-- WR.ID: read-only, so the write is ignored when IDLE (10_state.md R41, R23). -/
def execWrId (_w : Word) (s : State) : Host.Outcome State Fault Refusal :=
  hostWrite id s

/-- WR.CONFIG (10_state.md R24): bits 3:0 become DIGITS, bits 31:4 are ignored. -/
def execWrConfig (w : Word) (s : State) : Host.Outcome State Fault Refusal :=
  hostWrite (fun b => { b with digits := w.setWidth 4 }) s

/-- WR.STATUS: read-only, so the write is ignored when IDLE (10_state.md R41, R26). -/
def execWrStatus (_w : Word) (s : State) : Host.Outcome State Fault Refusal :=
  hostWrite id s

/-- WR.CODE: read-only, so the write is ignored when IDLE (10_state.md R41, R27). -/
def execWrCode (_w : Word) (s : State) : Host.Outcome State Fault Refusal :=
  hostWrite id s

/-- WR.SNUM: read-only, so the write is ignored when IDLE (10_state.md R41, R28). -/
def execWrSnum (_w : Word) (s : State) : Host.Outcome State Fault Refusal :=
  hostWrite id s

/-- WR.OFFSET: read-only, so the write is ignored when IDLE (10_state.md R41, R29). -/
def execWrOffset (_w : Word) (s : State) : Host.Outcome State Fault Refusal :=
  hostWrite id s

/-- WR.KEY_CLR (10_state.md R30): any data zeroises the key and clears KEY_LEN and OVF. -/
def execWrKeyClr (_w : Word) (s : State) : Host.Outcome State Fault Refusal :=
  hostWrite clearKey s

/-- WR.KEY_DATA (10_state.md R31): bits 7:0 are appended, or OVF is set and the byte dropped. -/
def execWrKeyData (w : Word) (s : State) : Host.Outcome State Fault Refusal :=
  hostWrite (appendKeyByte s.keyCap (w.setWidth 8)) s

/-- WR.KEY_LEN: read-only, so the write is ignored when IDLE (10_state.md R41, R32). -/
def execWrKeyLen (_w : Word) (s : State) : Host.Outcome State Fault Refusal :=
  hostWrite id s

/-- WR.COUNTER_LO (10_state.md R33). -/
def execWrCounterLo (w : Word) (s : State) : Host.Outcome State Fault Refusal :=
  hostWrite (fun b => { b with counter := setLow b.counter w }) s

/-- WR.COUNTER_HI (10_state.md R33). -/
def execWrCounterHi (w : Word) (s : State) : Host.Outcome State Fault Refusal :=
  hostWrite (fun b => { b with counter := setHigh b.counter w }) s

/-- WR.T0_LO (10_state.md R34). -/
def execWrT0Lo (w : Word) (s : State) : Host.Outcome State Fault Refusal :=
  hostWrite (fun b => { b with t0 := setLow b.t0 w }) s

/-- WR.T0_HI (10_state.md R34). -/
def execWrT0Hi (w : Word) (s : State) : Host.Outcome State Fault Refusal :=
  hostWrite (fun b => { b with t0 := setHigh b.t0 w }) s

/-- WR.STEP_LO (10_state.md R35). -/
def execWrStepLo (w : Word) (s : State) : Host.Outcome State Fault Refusal :=
  hostWrite (fun b => { b with step := setLow b.step w }) s

/-- WR.STEP_HI (10_state.md R35). -/
def execWrStepHi (w : Word) (s : State) : Host.Outcome State Fault Refusal :=
  hostWrite (fun b => { b with step := setHigh b.step w }) s

/-- WR.TIME_SAMPLE_LO: read-only, so the write is ignored when IDLE (10_state.md R41, R37). -/
def execWrTimeSampleLo (_w : Word) (s : State) : Host.Outcome State Fault Refusal :=
  hostWrite id s

/-- WR.TIME_SAMPLE_HI: read-only, so the write is ignored when IDLE (10_state.md R41, R37). -/
def execWrTimeSampleHi (_w : Word) (s : State) : Host.Outcome State Fault Refusal :=
  hostWrite id s

/-- WR.DIGEST_IN0 (10_state.md R38). -/
def execWrDigestIn0 (w : Word) (s : State) : Host.Outcome State Fault Refusal :=
  hostWrite (fun b => { b with digestIn := setDigestWord b.digestIn 0 w }) s

/-- WR.DIGEST_IN1 (10_state.md R38). -/
def execWrDigestIn1 (w : Word) (s : State) : Host.Outcome State Fault Refusal :=
  hostWrite (fun b => { b with digestIn := setDigestWord b.digestIn 1 w }) s

/-- WR.DIGEST_IN2 (10_state.md R38). -/
def execWrDigestIn2 (w : Word) (s : State) : Host.Outcome State Fault Refusal :=
  hostWrite (fun b => { b with digestIn := setDigestWord b.digestIn 2 w }) s

/-- WR.DIGEST_IN3 (10_state.md R38). -/
def execWrDigestIn3 (w : Word) (s : State) : Host.Outcome State Fault Refusal :=
  hostWrite (fun b => { b with digestIn := setDigestWord b.digestIn 3 w }) s

/-- WR.DIGEST_IN4 (10_state.md R38). -/
def execWrDigestIn4 (w : Word) (s : State) : Host.Outcome State Fault Refusal :=
  hostWrite (fun b => { b with digestIn := setDigestWord b.digestIn 4 w }) s

end Sys2Proof.Machine
end

