-- ==== Sys2Proof/Machine/Dispatch.lean ====
section
/-! DEFINITION. The dispatch: one arm per constructor of Instr, each one call of that instruction's meaning. -/

namespace Sys2Proof.Machine

def exec (i : Instr) (s : State) : Host.Outcome State Fault Refusal :=
  match i with
  | .nop => Sys2Proof.Machine.execNop s
  | .genCounter => Sys2Proof.Machine.execGenCounter s
  | .genTime => Sys2Proof.Machine.execGenTime s
  | .truncate => Sys2Proof.Machine.execTruncate s
  | .rdId => Sys2Proof.Machine.execRdId s
  | .wrId w => Sys2Proof.Machine.execWrId w s
  | .rdConfig => Sys2Proof.Machine.execRdConfig s
  | .wrConfig w => Sys2Proof.Machine.execWrConfig w s
  | .rdCmd => Sys2Proof.Machine.execRdCmd s
  | .wrCmd w => Sys2Proof.Machine.execWrCmd w s
  | .rdStatus => Sys2Proof.Machine.execRdStatus s
  | .wrStatus w => Sys2Proof.Machine.execWrStatus w s
  | .rdCode => Sys2Proof.Machine.execRdCode s
  | .wrCode w => Sys2Proof.Machine.execWrCode w s
  | .rdSnum => Sys2Proof.Machine.execRdSnum s
  | .wrSnum w => Sys2Proof.Machine.execWrSnum w s
  | .rdOffset => Sys2Proof.Machine.execRdOffset s
  | .wrOffset w => Sys2Proof.Machine.execWrOffset w s
  | .rdKeyClr => Sys2Proof.Machine.execRdKeyClr s
  | .wrKeyClr w => Sys2Proof.Machine.execWrKeyClr w s
  | .rdKeyData => Sys2Proof.Machine.execRdKeyData s
  | .wrKeyData w => Sys2Proof.Machine.execWrKeyData w s
  | .rdKeyLen => Sys2Proof.Machine.execRdKeyLen s
  | .wrKeyLen w => Sys2Proof.Machine.execWrKeyLen w s
  | .rdCounterLo => Sys2Proof.Machine.execRdCounterLo s
  | .wrCounterLo w => Sys2Proof.Machine.execWrCounterLo w s
  | .rdCounterHi => Sys2Proof.Machine.execRdCounterHi s
  | .wrCounterHi w => Sys2Proof.Machine.execWrCounterHi w s
  | .rdT0Lo => Sys2Proof.Machine.execRdT0Lo s
  | .wrT0Lo w => Sys2Proof.Machine.execWrT0Lo w s
  | .rdT0Hi => Sys2Proof.Machine.execRdT0Hi s
  | .wrT0Hi w => Sys2Proof.Machine.execWrT0Hi w s
  | .rdStepLo => Sys2Proof.Machine.execRdStepLo s
  | .wrStepLo w => Sys2Proof.Machine.execWrStepLo w s
  | .rdStepHi => Sys2Proof.Machine.execRdStepHi s
  | .wrStepHi w => Sys2Proof.Machine.execWrStepHi w s
  | .rdTimeSampleLo => Sys2Proof.Machine.execRdTimeSampleLo s
  | .wrTimeSampleLo w => Sys2Proof.Machine.execWrTimeSampleLo w s
  | .rdTimeSampleHi => Sys2Proof.Machine.execRdTimeSampleHi s
  | .wrTimeSampleHi w => Sys2Proof.Machine.execWrTimeSampleHi w s
  | .rdDigestIn0 => Sys2Proof.Machine.execRdDigestIn0 s
  | .wrDigestIn0 w => Sys2Proof.Machine.execWrDigestIn0 w s
  | .rdDigestIn1 => Sys2Proof.Machine.execRdDigestIn1 s
  | .wrDigestIn1 w => Sys2Proof.Machine.execWrDigestIn1 w s
  | .rdDigestIn2 => Sys2Proof.Machine.execRdDigestIn2 s
  | .wrDigestIn2 w => Sys2Proof.Machine.execWrDigestIn2 w s
  | .rdDigestIn3 => Sys2Proof.Machine.execRdDigestIn3 s
  | .wrDigestIn3 w => Sys2Proof.Machine.execWrDigestIn3 w s
  | .rdDigestIn4 => Sys2Proof.Machine.execRdDigestIn4 s
  | .wrDigestIn4 w => Sys2Proof.Machine.execWrDigestIn4 w s

end Sys2Proof.Machine
end

