-- ==== Sys2Proof/Machine/HostProgram.lean ====
section
/-! DEFINITION. Host programs: the statements and pseudo-instructions of 30_encoding.md R99 and R100, as functions to the
statements State.program holds.  Their concrete text is notation only (92_eei_decisions.md D38). -/

namespace Sys2Proof.Machine

/-- `wr REG, imm32` (30_encoding.md R99). -/
def wr (r : Reg) (w : Word) : HostStmt := .bus (writeAt r.off w)

/-- `rd REG` (30_encoding.md R99). -/
def rd (r : Reg) : HostStmt := .bus (readAt r.off)

/-- `poll REG, mask, val` (30_encoding.md R99). -/
def pollReg (r : Reg) (mask val : Word) : HostStmt := .poll r.off mask val

/-- The pseudo-instructions (30_encoding.md R100). -/
inductive Pseudo where
  | nop
  | genCtr
  | genTime
  | trunc
  | wait
  | digits (d : Word)
  | key (bytes : List Byte)
  | ctr (v : Dword)
  | t0 (v : Dword)
  | step (v : Dword)
  | digest (h : Digest)
  | result
  deriving DecidableEq, Repr

/-- The ASCII bytes of a key text (30_encoding.md R100; the reading is from general knowledge, log entry 14).  A character
with a code of 128 or more has no ASCII byte and R100 does not speak of one: what it stands for is the free value
`Config.nonAsciiBytes` (DESIGN CHOICE, safe, log entry 18). -/
def asciiBytes (text : List Char) : List Byte :=
  text.flatMap fun c => if c.toNat < 128 then [BitVec.ofNat 8 c.toNat] else Config.nonAsciiBytes c

/-- The exact expansion of each pseudo-instruction (30_encoding.md R100). -/
def expand : Pseudo → List HostStmt
  | .nop => [wr .cmd 0x00000000]
  | .genCtr => [wr .cmd 0x00000001]
  | .genTime => [wr .cmd 0x00000002]
  | .trunc => [wr .cmd 0x00000003]
  | .wait => [pollReg .status 0x00000001 0x00000000]
  | .digits d => [wr .config d]
  | .key bytes => wr .keyClr 0 :: bytes.map fun b => wr .keyData (b.setWidth 32)
  | .ctr v => [wr .counterLo (lowHalf v), wr .counterHi (highHalf v)]
  | .t0 v => [wr .t0Lo (lowHalf v), wr .t0Hi (highHalf v)]
  | .step v => [wr .stepLo (lowHalf v), wr .stepHi (highHalf v)]
  | .digest h =>
    [wr .digestIn0 (digestWord h 0), wr .digestIn1 (digestWord h 1), wr .digestIn2 (digestWord h 2),
     wr .digestIn3 (digestWord h 3), wr .digestIn4 (digestWord h 4)]
  | .result => [pollReg .status 0x00000001 0x00000000, rd .status, rd .code]

/-- The hexadecimal digits of a value, most significant first. -/
def hexDigits (v : Nat) : Nat → List Char
  | 0 => []
  | n + 1 => (Nat.digitChar (v / 16 ^ n % 16)).toUpper :: hexDigits v n

/-- The encoding column of 30_encoding.md R99: `W <off> <imm32>` for a write, `R <off>` for a read, and a poll shown once
as its read (95_test_vectors.md section 3).  R99 has 4-byte statements only and gives a 1- or 2-byte transaction no text;
here it is written as the 4-byte access with the same offset and data, without its size (DESIGN CHOICE, unsafe for a claim
that reads the size back from the text, log entry 16). -/
def busText : HostStmt → List Char
  | .bus t =>
    if t.write then 'W' :: ' ' :: hexDigits t.off.toNat 2 ++ ' ' :: hexDigits t.wdata.toNat 8
    else 'R' :: ' ' :: hexDigits t.off.toNat 2
  | .poll off _ _ => 'R' :: ' ' :: hexDigits off.toNat 2

end Sys2Proof.Machine
end

