-- ==== Sys2Proof/Machine/Sequencer.lean ====
section
/-! DEFINITION. Which agent moves next, and the host's step: fetching the next transaction of the host's program, decoding
and running it (20_memory.md R62, R76; 43_commands.md R195). -/

namespace Sys2Proof.Machine

/-! ### The engine's latency -/

/-- The state with the latency of the command in flight drawn, if it is not drawn yet: any number of host transactions,
a scripted one, else a free value (43_commands.md R195; log entry 4). -/
def drawLatency (s : State) : State :=
  match s.wait, s.latencyIn with
  | some _, _ => s
  | none, n :: rest => { s with wait := some n, latencyIn := rest }
  | none, [] => { s with wait := some (Config.latency s.draws), draws := s.draws + 1 }

/-- While BUSY: the engine moves when its latency has passed, or when the host has nothing to issue, so that it is never
starved for ever (70_reset_and_hazards.md R258). -/
def engineMoves (s : State) : Bool := s.program.isEmpty || s.wait == some 0

/-- One host transaction of the latency has passed. -/
def tickWait (s : State) : State := { s with wait := s.wait.map (· - 1) }

/-- No command in flight: nothing to wait for. -/
def clearWait (s : State) : State := { s with wait := none }

/-! ### The host -/

/-- The data a read at `off` returns to the host: `reg(off)`, or 0 with SLVERR (20_memory.md R65, R67). -/
def readValue (off : BitVec 8) (b : Block) : Word :=
  match checkAddress off .four with
  | .ok r => regRead r b
  | .error _ => 0

/-- The host's next transaction, and the state with it taken from the program.  A poll stays in the program until the
data it reads, masked, is `val`; reads change nothing, so the data is that of the state before the read
(30_encoding.md R99). -/
def fetch (s : State) : Option (Transaction × State) :=
  match s.program with
  | [] => none
  | .bus t :: rest => some (t, { s with program := rest })
  | .poll off mask val :: rest =>
    some (readAt off, if readValue off s.st &&& mask = val then { s with program := rest } else s)

/-- The block's answer to one transaction: the instruction it decodes to runs, or it gets SLVERR, whatever the sequencer
is doing (60_exceptions.md R215 (a)). -/
def runTransaction (t : Transaction) (s : State) : Host.Outcome State Fault Refusal :=
  match decode t with
  | .ok i => exec i s
  | .error e => .next (busError e s)

/-- The host's step; with nothing to issue it waits (60_exceptions.md R226; log entry 13). -/
def hostStep (s : State) : Host.Outcome State Fault Refusal :=
  match fetch s with
  | none => .next s
  | some (t, s) => runTransaction t s

/-- One step of the host or of the engine, where the reset input is not asserted (20_memory.md R76). -/
def agentStep (s : State) : Host.Outcome State Fault Refusal :=
  if s.st.busy then
    let s := drawLatency s
    if engineMoves s then .next (complete s) else hostStep (tickWait s)
  else hostStep (clearWait s)

/-- One step: the reset input first, which takes precedence over everything (60_exceptions.md R215 (c)). -/
def machineStep (s : State) : Host.Outcome State Fault Refusal :=
  match s.resetIn with
  | true :: rest => .next (resetBlock { s with resetIn := rest })
  | false :: rest => agentStep { s with resetIn := rest }
  | [] => agentStep s

/-! ### Loading one transaction -/

/-- The host issues `t` at the very next step: `t` is put before its program, the reset input is not asserted at that
step, and a command in flight completes only after that transaction. -/
def issueNext (t : Transaction) (s : State) : State :=
  { s with
    program := .bus t :: s.program
    resetIn := match s.resetIn with
      | true :: _ => false :: s.resetIn
      | levels => levels
    wait := if s.st.busy then
        match s.wait with
        | some (n + 1) => some (n + 1)
        | _ => some 1
      else s.wait }

end Sys2Proof.Machine
end

