-- ==== Sys2Proof/Machine/Step.lean ====
section
/-! DEFINITION. The step of the machine, and the state whose next step runs a given table word. -/

namespace Sys2Proof.Machine

/-- One step of the machine (Sequencer.lean says which agent moves). -/
def step (s : State) : Host.Outcome State Fault Refusal := machineStep s

/-- The state `s` whose very next step runs the transaction of the table word; a word that is no transaction leaves `s` as
it is. -/
def State.withFetchWord (s : State) (nbits w : Nat) : State :=
  match transactionOfWord nbits w with
  | some t => issueNext t s
  | none => s

end Sys2Proof.Machine
end

