-- ==== Sys2Proof/Safety.lean ====
section
/-! DEFINITION. What counts as a safe run, and the invariant of the machine, in the terms claims use. -/

namespace Sys2Proof.Machine

/-- No SLVERR has been received: the host program has made no narrow, misaligned or unmapped access (60_exceptions.md
R216). -/
abbrev noFaultRecorded (s : State) : Prop := s.hostFault = none

/-- CODE, SNUM and OFFSET are the results of a finished command (70_reset_and_hazards.md R250). -/
abbrev resultReady (b : Block) : Prop := b.busy = false ∧ b.done = true ∧ b.err = false

/-- The three invariants of the flags (10_state.md R26). -/
abbrev statusOk (b : Block) : Prop :=
  (b.busy = true → b.done = false ∧ b.err = false) ∧ (b.err = false ↔ b.errcode = .none) ∧ (b.err = true → b.done = true)

/-- A key fits the buffer, and bytes have been dropped only from a full buffer (10_state.md R31, R39). -/
abbrev keyFits (cap : Nat) (key : List Byte) (ovf : Bool) : Prop := key.length ≤ cap ∧ (ovf = true → key.length = cap)

/-- The key a latch record holds fits the buffer too. -/
def latchFits (cap : Nat) : Latch → Bool
  | .genCounter j => decide (keyFits cap j.key j.keyOvf)
  | .genTime j => decide (keyFits cap j.key j.keyOvf)
  | .truncate _ _ => true

/-- CODE, SNUM and OFFSET are 0 unless the last command succeeded, and CODE is SNUM reduced by a power of ten
(10_state.md R27 to R29; 42_truncation_reduction.md R167, R168; 93_implementation_defined.md U16). -/
abbrev resultsOk (b : Block) : Prop :=
  (¬resultReady b → b.code = 0 ∧ b.snum = 0 ∧ b.offset = 0) ∧ b.snum.toNat < 2 ^ 31 ∧
    ∃ d : Digits, b.code.toNat = b.snum.toNat % 10 ^ d.val

/-- The invariant every step keeps: KEY_CAP within the spec's bounds (00_scope.md R8), the key and the latched key within
KEY_CAP, the flags and the results as the spec says. -/
abbrev MachineInv (s : State) : Prop :=
  Config.keyCapOk s.keyCap ∧ keyFits s.keyCap s.st.key s.st.keyOvf ∧ (∀ l ∈ s.st.latch, latchFits s.keyCap l = true) ∧
    statusOk s.st ∧ resultsOk s.st

/-- A GEN_COUNTER acceptance and the completion that follows it, as one round (40_byte_source.md R113). -/
def counterRound (s : State) : State :=
  match exec .genCounter s with
  | .next t => complete t
  | .fault _ => s
  | .refused _ => s

/-- `t` is what `n` steps make of `s`, the block being BUSY in `s`, in `t` and in every state between. -/
def staysBusy : Nat → State → State → Prop
  | 0, s, t => s.st.busy = true ∧ t = s
  | n + 1, s, t => s.st.busy = true ∧ ∃ u, step s = .next u ∧ staysBusy n u t

/-- The reset input is not asserted at the coming step, and `levels` are its levels at the steps after it. -/
abbrev noReset (s : State) (levels : List Bool) : Prop :=
  s.resetIn = false :: levels ∨ (s.resetIn = [] ∧ levels = [])

/-- The sample GEN_TIME takes in state `s` is `n`, and `u` is `s` with that sample used up: a scripted one, or a draw of
the free value (40_byte_source.md R116). -/
abbrev sampled (s : State) (n : Dword) (u : State) : Prop :=
  (∃ ns, s.nowIn = n :: ns ∧ u = { s with nowIn := ns }) ∨
    (s.nowIn = [] ∧ n = Config.nowSec s.draws ∧ u = { s with draws := s.draws + 1 })

end Sys2Proof.Machine
end

