-- ==== Sys2Proof/Certificates/Slice0/Obligations.lean ====
section
/-! DEFINITION. The statements for the provers, from the numbered rules of spec/. -/

open Sys2Proof Sys2Proof.Machine

/-- Every register read answers OKAY with reg(off) and changes nothing in the block.  States R40, R67. -/
def Obligations.RegisterReadsReturnReg : Prop :=
  ∀ s : State,
    exec .rdId s = .next { s with resp := some (.okayRead 0x4F545031#32) } ∧
    exec .rdConfig s = .next { s with resp := some (.okayRead (s.st.digits.setWidth 32)) } ∧
    exec .rdCmd s = .next { s with resp := some (.okayRead 0#32) } ∧
    exec .rdStatus s = .next { s with resp := some (.okayRead (BitVec.ofNat 32 (s.st.busy.toNat + 2 * s.st.done.toNat +
      4 * s.st.err.toNat + 8 * s.st.busyWr.toNat + 16 * (errBits s.st.errcode).toNat))) } ∧
    exec .rdCode s = .next { s with resp := some (.okayRead s.st.code) } ∧
    exec .rdSnum s = .next { s with resp := some (.okayRead s.st.snum) } ∧
    exec .rdOffset s = .next { s with resp := some (.okayRead (s.st.offset.setWidth 32)) } ∧
    exec .rdKeyClr s = .next { s with resp := some (.okayRead 0#32) } ∧
    exec .rdKeyData s = .next { s with resp := some (.okayRead 0#32) } ∧
    exec .rdKeyLen s = .next { s with resp := some (.okayRead
      ((if s.st.keyOvf then 0x80000000#32 else 0#32) ||| BitVec.ofNat 32 s.st.key.length)) } ∧
    exec .rdCounterLo s = .next { s with resp := some (.okayRead 0#32) } ∧
    exec .rdCounterHi s = .next { s with resp := some (.okayRead 0#32) } ∧
    exec .rdT0Lo s = .next { s with resp := some (.okayRead (s.st.t0.extractLsb' 0 32)) } ∧
    exec .rdT0Hi s = .next { s with resp := some (.okayRead (s.st.t0.extractLsb' 32 32)) } ∧
    exec .rdStepLo s = .next { s with resp := some (.okayRead (s.st.step.extractLsb' 0 32)) } ∧
    exec .rdStepHi s = .next { s with resp := some (.okayRead (s.st.step.extractLsb' 32 32)) } ∧
    exec .rdTimeSampleLo s = .next { s with resp := some (.okayRead (s.st.timeSample.extractLsb' 0 32)) } ∧
    exec .rdTimeSampleHi s = .next { s with resp := some (.okayRead (s.st.timeSample.extractLsb' 32 32)) } ∧
    exec .rdDigestIn0 s = .next { s with resp := some (.okayRead (be32dec s.st.digestIn[0] s.st.digestIn[1]
      s.st.digestIn[2] s.st.digestIn[3])) } ∧
    exec .rdDigestIn1 s = .next { s with resp := some (.okayRead (be32dec s.st.digestIn[4] s.st.digestIn[5]
      s.st.digestIn[6] s.st.digestIn[7])) } ∧
    exec .rdDigestIn2 s = .next { s with resp := some (.okayRead (be32dec s.st.digestIn[8] s.st.digestIn[9]
      s.st.digestIn[10] s.st.digestIn[11])) } ∧
    exec .rdDigestIn3 s = .next { s with resp := some (.okayRead (be32dec s.st.digestIn[12] s.st.digestIn[13]
      s.st.digestIn[14] s.st.digestIn[15])) } ∧
    exec .rdDigestIn4 s = .next { s with resp := some (.okayRead (be32dec s.st.digestIn[16] s.st.digestIn[17]
      s.st.digestIn[18] s.st.digestIn[19])) }

/-- A write while BUSY gets OKAY and changes nothing but BUSY_WR, at every register and for every command.  States
R66. -/
def Obligations.WriteWhileBusyOnlySetsBusyWr : Prop :=
  ∀ (i : Instr) (s : State), s.st.busy = true →
    ((encode i).write = true →
      exec i s = .next { s with st := { s.st with busyWr := true }, resp := some .okayWrite }) ∧
    ((encode i).write = false → ∃ v, exec i s = .next { s with resp := some (.okayRead v) })

/-- When IDLE, a write to each read-only register gets OKAY and changes nothing in the block.  Derived from
10_state.md R41 (the read-only offsets), 92_eei_decisions.md D4. -/
def Obligations.ReadOnlyRegistersIgnoreWrites : Prop :=
  ∀ (s : State) (w : Word), s.st.busy = false →
    exec (.wrId w) s = .next { s with resp := some .okayWrite } ∧
    exec (.wrStatus w) s = .next { s with resp := some .okayWrite } ∧
    exec (.wrCode w) s = .next { s with resp := some .okayWrite } ∧
    exec (.wrSnum w) s = .next { s with resp := some .okayWrite } ∧
    exec (.wrOffset w) s = .next { s with resp := some .okayWrite } ∧
    exec (.wrKeyLen w) s = .next { s with resp := some .okayWrite } ∧
    exec (.wrTimeSampleLo w) s = .next { s with resp := some .okayWrite } ∧
    exec (.wrTimeSampleHi w) s = .next { s with resp := some .okayWrite }

/-- When IDLE, CONFIG takes its low 4 bits and each _LO or _HI write replaces its half of the 64-bit register.
Derived from 10_state.md R24, 10_state.md R33, 10_state.md R34, 10_state.md R35, 10_state.md R41. -/
def Obligations.ConfigAndHalfWritesReplaceTheirField : Prop :=
  ∀ (s : State) (w : Word), s.st.busy = false →
    exec (.wrConfig w) s = .next { s with st := { s.st with digits := w.extractLsb' 0 4 }, resp := some .okayWrite } ∧
    exec (.wrCounterLo w) s = .next { s with
      st := { s.st with counter := s.st.counter.extractLsb' 32 32 ++ w }, resp := some .okayWrite } ∧
    exec (.wrCounterHi w) s = .next { s with
      st := { s.st with counter := w ++ s.st.counter.extractLsb' 0 32 }, resp := some .okayWrite } ∧
    exec (.wrT0Lo w) s = .next { s with
      st := { s.st with t0 := s.st.t0.extractLsb' 32 32 ++ w }, resp := some .okayWrite } ∧
    exec (.wrT0Hi w) s = .next { s with
      st := { s.st with t0 := w ++ s.st.t0.extractLsb' 0 32 }, resp := some .okayWrite } ∧
    exec (.wrStepLo w) s = .next { s with
      st := { s.st with step := s.st.step.extractLsb' 32 32 ++ w }, resp := some .okayWrite } ∧
    exec (.wrStepHi w) s = .next { s with
      st := { s.st with step := w ++ s.st.step.extractLsb' 0 32 }, resp := some .okayWrite }

/-- KEY_CLR when IDLE empties the key, clears KEY_LEN and OVF, and leaves every buffer byte 0.  States R30. -/
def Obligations.KeyClearZeroisesTheKeyBuffer : Prop :=
  ∀ (s : State) (w : Word),
    (s.st.busy = false →
      exec (.wrKeyClr w) s = .next { s with st := { s.st with key := [], keyOvf := false }, resp := some .okayWrite }) ∧
    Block.keyLen { s.st with key := [], keyOvf := false } = 0 ∧
    Block.keyBuf s.keyCap { s.st with key := [], keyOvf := false } = List.replicate s.keyCap 0#8 ∧
    exec .rdKeyClr s = .next { s with resp := some (.okayRead 0#32) }

/-- KEY_DATA when IDLE appends bits 7:0 to the key while there is room, else drops the byte and sets OVF.  Derived
from 10_state.md R31, 10_state.md R39. -/
def Obligations.KeyDataAppendsOrDrops : Prop :=
  ∀ (s : State) (w : Word), s.st.busy = false →
    (s.st.key.length < s.keyCap →
      exec (.wrKeyData w) s = .next { s with
        st := { s.st with key := s.st.key ++ [w.extractLsb' 0 8] }, resp := some .okayWrite }) ∧
    (s.keyCap ≤ s.st.key.length →
      exec (.wrKeyData w) s = .next { s with st := { s.st with keyOvf := true }, resp := some .okayWrite }) ∧
    exec .rdKeyData s = .next { s with resp := some (.okayRead 0#32) }

/-- When IDLE, a write to DIGEST_INk sets digest bytes 4k to 4k+3 big-endian and no other byte.  Derived from
10_state.md R38, 10_state.md R41. -/
def Obligations.DigestWordWriteSetsItsFourBytes : Prop :=
  ∀ (s : State) (w : Word), s.st.busy = false →
    let set := fun k : Nat => Vector.ofFn fun j : Fin 20 =>
      if j.val / 4 = k then w.extractLsb' (8 * (3 - j.val % 4)) 8 else s.st.digestIn[j]
    exec (.wrDigestIn0 w) s = .next { s with st := { s.st with digestIn := set 0 }, resp := some .okayWrite } ∧
    exec (.wrDigestIn1 w) s = .next { s with st := { s.st with digestIn := set 1 }, resp := some .okayWrite } ∧
    exec (.wrDigestIn2 w) s = .next { s with st := { s.st with digestIn := set 2 }, resp := some .okayWrite } ∧
    exec (.wrDigestIn3 w) s = .next { s with st := { s.st with digestIn := set 3 }, resp := some .okayWrite } ∧
    exec (.wrDigestIn4 w) s = .next { s with st := { s.st with digestIn := set 4 }, resp := some .okayWrite }

/-- NOP when IDLE changes nothing in the block; while BUSY it only sets BUSY_WR; other words are not NOP.  States
R183. -/
def Obligations.NopHasNoEffect : Prop :=
  (∀ s : State,
    (s.st.busy = false → exec .nop s = .next { s with resp := some .okayWrite }) ∧
    (s.st.busy = true →
      exec .nop s = .next { s with st := { s.st with busyWr := true }, resp := some .okayWrite })) ∧
  ∀ w : Word, decodeCmd w = .nop ↔ w = 0#32

/-- GEN_COUNTER when IDLE: latch be64(counter) and advance the counter, or reject bad digits with the counter
unchanged.  States R184, R111. -/
def Obligations.GenCounterAcceptance : Prop :=
  ∀ s : State, s.st.busy = false →
    (∀ d : Digits, s.st.digits.toNat = d.val →
      exec .genCounter s = .next { s with
        st := { s.st with
          done := false, err := false, errcode := .none, busyWr := false, code := 0, snum := 0, offset := 0
          counter := s.st.counter + 1
          latch := some (.genCounter { digits := d, msg := be64 s.st.counter, key := s.st.key, keyOvf := s.st.keyOvf }) }
        resp := some .okayWrite }) ∧
    (9 < s.st.digits.toNat →
      exec .genCounter s = .next { s with
        st := { s.st with
          done := true, err := true, errcode := .invalidDigits, busyWr := false, code := 0, snum := 0, offset := 0 }
        resp := some .okayWrite })

/-- GEN_TIME when IDLE: digits, step and epoch checks in order, one sample, latch be64((n - t0) div step).  Derived
from 43_commands.md R187, 40_byte_source.md R114, 40_byte_source.md R115, 40_byte_source.md R116, 40_byte_source.md
R117, notes/assumptions/3.md (a sample from a script or a free value is the model's form). -/
def Obligations.GenTimeAcceptance : Prop :=
  ∀ s : State, s.st.busy = false →
    (9 < s.st.digits.toNat →
      exec .genTime s = .next { s with
        st := { s.st with
          done := true, err := true, errcode := .invalidDigits, busyWr := false, code := 0, snum := 0, offset := 0 }
        resp := some .okayWrite }) ∧
    (s.st.digits.toNat ≤ 9 → s.st.step = 0 →
      exec .genTime s = .next { s with
        st := { s.st with
          done := true, err := true, errcode := .stepZero, busyWr := false, code := 0, snum := 0, offset := 0 }
        resp := some .okayWrite }) ∧
    (∀ (d : Digits) (n : Dword) (u : State), s.st.digits.toNat = d.val → s.st.step ≠ 0 → sampled s n u →
      (n.toNat < s.st.t0.toNat →
        exec .genTime s = .next { u with
          st := { s.st with
            done := true, err := true, errcode := .timeBeforeEpoch, busyWr := false, code := 0, snum := 0, offset := 0
            timeSample := n }
          resp := some .okayWrite }) ∧
      (s.st.t0.toNat ≤ n.toNat →
        exec .genTime s = .next { u with
          st := { s.st with
            done := false, err := false, errcode := .none, busyWr := false, code := 0, snum := 0, offset := 0
            timeSample := n
            latch := some (.genTime
              { digits := d
                msg := be64 (BitVec.ofNat 64 ((n.toNat - s.st.t0.toNat) / s.st.step.toNat))
                key := s.st.key
                keyOvf := s.st.keyOvf }) }
          resp := some .okayWrite }))

/-- TRUNCATE when IDLE: latch DIGEST_IN, or reject bad digits; key, counter and time input are not touched.  States
R190. -/
def Obligations.TruncateAcceptance : Prop :=
  ∀ s : State, s.st.busy = false →
    (∀ d : Digits, s.st.digits.toNat = d.val →
      exec .truncate s = .next { s with
        st := { s.st with
          done := false, err := false, errcode := .none, busyWr := false, code := 0, snum := 0, offset := 0
          latch := some (.truncate d s.st.digestIn) }
        resp := some .okayWrite }) ∧
    (9 < s.st.digits.toNat →
      exec .truncate s = .next { s with
        st := { s.st with
          done := true, err := true, errcode := .invalidDigits, busyWr := false, code := 0, snum := 0, offset := 0 }
        resp := some .okayWrite })

/-- An illegal word written to CMD when IDLE is reported as ILLEGAL_CMD, whatever DIGITS holds, and starts nothing.
States R193. -/
def Obligations.IllegalWordIsRejected : Prop :=
  ∀ (s : State) (w : Word), s.st.busy = false → (w.extractLsb' 4 28 ≠ 0 ∨ 4 ≤ (w.extractLsb' 0 4).toNat) →
    exec (.wrCmd w) s = .next { s with
      st := { s.st with
        done := true, err := true, errcode := .illegalCmd, busyWr := false, code := 0, snum := 0, offset := 0 }
      resp := some .okayWrite } ∧
    errBits .illegalCmd = 5#4

/-- Writing a legal word to CMD is the command of that word.  Derived from 43_commands.md R180, 30_encoding.md R93,
notes/assumptions/11.md (the canonical form of a CMD write is the model's choice). -/
def Obligations.CmdWriteOfALegalWordIsItsCommand : Prop :=
  (∀ s : State,
    exec (.wrCmd 0#32) s = exec .nop s ∧ exec (.wrCmd 1#32) s = exec .genCounter s ∧
    exec (.wrCmd 2#32) s = exec .genTime s ∧ exec (.wrCmd 3#32) s = exec .truncate s) ∧
  (∀ s : State, s.st.busy = false →
    exec (.wrCmd 0#32) s = .next { s with resp := some .okayWrite } ∧
    ∀ d : Digits, s.st.digits.toNat = d.val →
      exec (.wrCmd 1#32) s = .next { s with
        st := { s.st with
          done := false, err := false, errcode := .none, busyWr := false, code := 0, snum := 0, offset := 0
          counter := s.st.counter + 1
          latch := some (.genCounter
            { digits := d, msg := be64 s.st.counter, key := s.st.key, keyOvf := s.st.keyOvf }) }
        resp := some .okayWrite } ∧
      exec (.wrCmd 3#32) s = .next { s with
        st := { s.st with
          done := false, err := false, errcode := .none, busyWr := false, code := 0, snum := 0, offset := 0
          latch := some (.truncate d s.st.digestIn) }
        resp := some .okayWrite }) ∧
  ∀ w : Word, decode (writeAt 0x08 w) = .ok (if w = 0 then .nop else if w = 1 then .genCounter
    else if w = 2 then .genTime else if w = 3 then .truncate else .wrCmd w)

/-- A command word is legal exactly when bits 31:4 are 0 and bits 3:0 are 0 to 3, and each legal word is its command.
States R92, R94. -/
def Obligations.CommandDecodeIsTotal : Prop :=
  decodeCmd 0x00000000#32 = .nop ∧ decodeCmd 0x00000001#32 = .genCounter ∧ decodeCmd 0x00000002#32 = .genTime ∧
  decodeCmd 0x00000003#32 = .truncate ∧
  (∀ w : Word, decodeCmd w = .illegal ↔ ¬(w.extractLsb' 4 28 = 0 ∧ (w.extractLsb' 0 4).toNat ∈ [0, 1, 2, 3])) ∧
  ∀ (w : Word) (s : State), decodeCmd w = .illegal → s.st.busy = false →
    ∃ t, exec (.wrCmd w) s = .next t ∧ t.st.err = true ∧ t.st.errcode = .illegalCmd

/-- The completion step: HMAC_INIT where key bytes were dropped, else the datapath on the HMAC or on the latched
digest.  Derived from 43_commands.md R196, notes/assumptions/4.md (the wait field it clears is the model's own). -/
def Obligations.CompletionWritesTheResultsOfTheLatch : Prop :=
  ∀ s : State,
    (∀ j : HmacJob, s.st.latch = some (.genCounter j) ∨ s.st.latch = some (.genTime j) →
      (j.keyOvf = true → complete s = { s with
        st := { s.st with done := true, err := true, errcode := .hmacInit, latch := none }, wait := none }) ∧
      (j.keyOvf = false → complete s = { s with
        st := { s.st with
          offset := (truncateReduce (hmacSha1 j.key j.msg) j.digits).offset
          snum := (truncateReduce (hmacSha1 j.key j.msg) j.digits).snum
          code := (truncateReduce (hmacSha1 j.key j.msg) j.digits).code
          done := true, err := false, errcode := .none, latch := none }
        wait := none })) ∧
    (∀ (d : Digits) (hs : Digest), s.st.latch = some (.truncate d hs) → complete s = { s with
      st := { s.st with
        offset := (truncateReduce hs d).offset, snum := (truncateReduce hs d).snum, code := (truncateReduce hs d).code
        done := true, err := false, errcode := .none, latch := none }
      wait := none }) ∧
    (s.st.latch = none → complete s = s)

/-- While BUSY the engine completes when no host transaction is left or its latency has passed.  Derived from
43_commands.md R195, 60_exceptions.md R226, notes/assumptions/4.md (the latency fields are the model's own),
notes/assumptions/13.md (that a step with nothing to issue answers the same state is the model's choice),
notes/assumptions/9.md (the list of reset levels is the model's own). -/
def Obligations.EngineCompletesAtItsTurn : Prop :=
  ∀ (s : State) (levels : List Bool), noReset s levels →
    (∀ n, s.st.busy = true → s.wait = some n → (n = 0 ∨ s.program = []) →
      step s = .next (complete { s with resetIn := levels })) ∧
    (s.st.busy = true → s.wait = none → s.program = [] →
      ∃ u, step s = .next u ∧ u.st = (complete s).st ∧ u.program = [] ∧ u.wait = none) ∧
    (∀ ns, s.st.busy = true → s.wait = none → s.latencyIn = 0 :: ns →
      step s = .next (complete { s with resetIn := levels, latencyIn := ns })) ∧
    (s.st.busy = false → s.program = [] → step s = .next { s with resetIn := levels, wait := none })

/-- The datapath: offset = HS[19] mod 16, snum = masked big-endian window, code = snum mod 10^d.  States R160, R161,
R162, R164, R166. -/
def Obligations.DatapathComputesOffsetSnumAndCode : Prop :=
  ∀ (hs : Digest) (d : Digits),
    (truncateReduce hs d).offset.toNat = hs[19].toNat % 16 ∧
    (∀ o : Fin 16, (truncateReduce hs d).offset.toNat = o.val →
      (truncateReduce hs d).snum.toNat = (hs[o.val].toNat % 128) * 2 ^ 24 + hs[o.val + 1].toNat * 2 ^ 16 +
        hs[o.val + 2].toNat * 2 ^ 8 + hs[o.val + 3].toNat) ∧
    (truncateReduce hs d).code.toNat = (truncateReduce hs d).snum.toNat % 10 ^ d.val

/-- The modulus table holds 10^d for d = 0..9, and 10^10 does not fit 32 bits.  States R165. -/
def Obligations.ModulusTableIsPowersOfTen : Prop :=
  (∀ d : Digits, (modulus d).toNat = 10 ^ d.val) ∧ 2 ^ 32 < 10 ^ 10 ∧
  [modulus 0, modulus 1, modulus 2, modulus 3, modulus 4, modulus 5, modulus 6, modulus 7, modulus 8, modulus 9] =
    [0x00000001, 0x0000000A, 0x00000064, 0x000003E8, 0x00002710, 0x000186A0, 0x000F4240, 0x00989680, 0x05F5E100,
      0x3B9ACA00]

/-- Range and mask laws: 0 <= code < 10^d, code <= snum, bit 31 of snum is 0.  States R167, R168, R169. -/
def Obligations.CodeRangeAndSnumMask : Prop :=
  ∀ (hs : Digest) (d : Digits),
    (truncateReduce hs d).code.toNat < 10 ^ d.val ∧
    (truncateReduce hs d).code.toNat ≤ (truncateReduce hs d).snum.toNat ∧
    (truncateReduce hs d).snum.getLsbD 31 = false ∧
    (truncateReduce hs d).snum.toNat ≤ 2 ^ 31 - 1 ∧
    0 ≤ (truncateReduce hs d).snum.toInt ∧
    (truncateReduce hs d).code.toNat < 10 ^ 9 ∧ (10 ^ 9 < 2 ^ 30)

/-- Bounds law: the last byte index the window reads is below 20.  States R163, R161. -/
def Obligations.WindowStaysInsideTheDigest : Prop :=
  ∀ hs : Digest,
    (selectOffset hs).toNat ≤ 15 ∧ (selectOffset hs).toNat + 3 ≤ 18 ∧ (selectOffset hs).toNat + 4 ≤ 19 ∧
    ∀ (k : Fin 4) (h : (selectOffset hs).toNat + k.val < 20),
      (selectWindow hs (selectOffset hs))[k] = hs[(selectOffset hs).toNat + k.val]

/-- be64 and be32 put the most significant byte first; be32dec is big-endian and inverse to be32.  States R12. -/
def Obligations.ByteOrderFunctions : Prop :=
  (∀ (v : Dword) (i : Fin 8), (be64 v)[i].toNat = v.toNat / 2 ^ (8 * (7 - i.val)) % 256) ∧
  (∀ b0 b1 b2 b3 : Byte, (be32dec b0 b1 b2 b3).toNat =
    b0.toNat * 2 ^ 24 + b1.toNat * 2 ^ 16 + b2.toNat * 2 ^ 8 + b3.toNat) ∧
  (∀ v : Word, be32dec (be32 v)[0] (be32 v)[1] (be32 v)[2] (be32 v)[3] = v) ∧
  ∀ b0 b1 b2 b3 : Byte, be32 (be32dec b0 b1 b2 b3) = #v[b0, b1, b2, b3]

/-- The source's known answer: HMAC-SHA1 of counter 0 under the key 12345678901234567890.  States R146. -/
def Obligations.HmacKnownAnswer : Prop :=
  hmacSha1 [0x31, 0x32, 0x33, 0x34, 0x35, 0x36, 0x37, 0x38, 0x39, 0x30, 0x31, 0x32, 0x33, 0x34, 0x35, 0x36, 0x37, 0x38,
      0x39, 0x30] #v[0, 0, 0, 0, 0, 0, 0, 0] =
    #v[0xcc, 0x93, 0xcf, 0x18, 0x50, 0x8d, 0x94, 0x93, 0x4c, 0x64, 0xb6, 0x5d, 0x8b, 0xa7, 0x66, 0x7f, 0xb7, 0xcd,
      0xe4, 0xb0]

/-- SHA-1 padding and the block counts inside one command: 2 blocks inside, 2 outside, ceil((len+9)/64) for a long
key.  Derived from 41_hmac_sha1.md R137, 41_hmac_sha1.md R143, 41_hmac_sha1.md R136, notes/assumptions/7.md (the
algorithm is the one the spec gives from general knowledge). -/
def Obligations.HashInputSizes : Prop :=
  (∀ x : List Byte,
    (pad x).length % 64 = 0 ∧ x <+: pad x ∧ padZeros x.length < 64 ∧
    (pad x).length = x.length + 1 + padZeros x.length + 8 ∧
    (paddedBlocks x).length = (x.length + 9 + 63) / 64 ∧ ∀ y ∈ paddedBlocks x, y.length = 64) ∧
  (∀ key : List Byte, (deriveK0 key).length = 64) ∧
  (∀ x : List Byte, x.length = 72 ∨ x.length = 84 → (paddedBlocks x).length = 2)

/-- A key over 64 bytes is replaced by its SHA-1 digest; shorter keys are filled with zeros.  Derived from
41_hmac_sha1.md R135, 41_hmac_sha1.md R136, 41_hmac_sha1.md R130, notes/assumptions/7.md (the algorithm is the one the
spec gives from general knowledge). -/
def Obligations.LongKeysAreHashedFirst : Prop :=
  ∀ key msg : List Byte,
    (64 < key.length → hmacSha1Bytes key msg = hmacSha1Bytes (sha1 key).toList msg) ∧
    (key.length = 64 → deriveK0 key = key) ∧
    (key.length < 64 → hmacSha1Bytes (key ++ [0x00#8]) msg = hmacSha1Bytes key msg)

/-- ERRCODE values: 0 to 5 for the six codes, distinct, and never 6 to 15.  Derived from 60_exceptions.md R210,
30_encoding.md R97, notes/assumptions/12.md (that ERRCODE is typed by its six codes is the model's form). -/
def Obligations.ErrorCodesAreThoseOfTheTable : Prop :=
  errBits .none = 0 ∧ errBits .hmacInit = 1 ∧ errBits .invalidDigits = 2 ∧ errBits .stepZero = 3 ∧
  errBits .timeBeforeEpoch = 4 ∧ errBits .illegalCmd = 5 ∧
  (∀ e : ErrCode, (errBits e).toNat < 6) ∧ ∀ e f : ErrCode, errBits e = errBits f → e = f

/-- A command rejected at acceptance changes only the results, the flags, and for TIME_BEFORE_EPOCH the time sample.
Derived from 40_byte_source.md R122, 40_byte_source.md R115, 40_byte_source.md R116, notes/assumptions/3.md (the
script of samples and the draw counter are the model's own). -/
def Obligations.RejectionMutatesNothingElse : Prop :=
  ∀ (i : Instr) (s t : State), s.st.busy = false →
    (i = .genCounter ∨ i = .genTime ∨ i = .truncate ∨ ∃ w, i = .wrCmd w ∧ w ≠ 0) →
    exec i s = .next t → t.st.busy = false →
    t.st = { s.st with
      done := true, err := true, errcode := t.st.errcode, busyWr := false, code := 0, snum := 0, offset := 0
      timeSample := t.st.timeSample } ∧
    (t.st.errcode = .illegalCmd ∨ t.st.errcode = .invalidDigits ∨ t.st.errcode = .stepZero ∨
      t.st.errcode = .timeBeforeEpoch) ∧
    (t.st.errcode ≠ .timeBeforeEpoch →
      t.st.timeSample = s.st.timeSample ∧ t.nowIn = s.nowIn ∧ t.draws = s.draws)

/-- The reset input puts every item of the block to its reset value in one step, whatever it was doing.  Derived from
70_reset_and_hazards.md R240, 70_reset_and_hazards.md R241, 70_reset_and_hazards.md R242, notes/assumptions/9.md (that
the host-side fields and KEY_CAP stay under reset is the model's choice). -/
def Obligations.ResetSetsEveryStateItem : Prop :=
  (∀ (s : State) (levels : List Bool), s.resetIn = true :: levels →
    step s = .next { s with
      st :=
        { digits := 0xF#4, key := [], keyOvf := false, counter := 0, t0 := 0, step := 0, timeSample := 0
          digestIn := Vector.replicate 20 0#8, code := 0, snum := 0, offset := 0, done := false, err := false
          busyWr := false, errcode := .none, latch := none }
      resetIn := levels
      wait := none }) ∧
  (State.reset.st.busy = false ∧ State.reset.st.keyLen = 0 ∧
    State.reset.st.keyBuf State.reset.keyCap = List.replicate State.reset.keyCap 0#8 ∧
    State.reset.st.counter = 0) ∧
  ∀ r : Reg, exec (readInstr r) State.reset = .next { State.reset with
    resp := some (.okayRead (if r = .id then 0x4F545031#32 else if r = .config then 0x0000000F#32 else 0#32)) }

/-- A step is exec of the instruction the next host transaction decodes to, with the model's own bookkeeping.  Derived
from 20_memory.md R62, 30_encoding.md R91, 43_commands.md R195, notes/assumptions/8.md, 4.md and 9.md (program,
latency and reset-level fields are the model's own). -/
def Obligations.StepRunsTheDecodedInstruction : Prop :=
  ∀ (s : State) (t : Transaction) (rest : List HostStmt) (levels : List Bool) (i : Instr),
    s.program = .bus t :: rest → noReset s levels → decode t = .ok i →
    (s.st.busy = false → step s = exec i { s with program := rest, resetIn := levels, wait := none }) ∧
    (∀ n, s.st.busy = true → s.wait = some (n + 1) →
      step s = exec i { s with program := rest, resetIn := levels, wait := some n }) ∧
    (∀ n ns, s.st.busy = true → s.wait = none → s.latencyIn = (n + 1) :: ns →
      step s = exec i { s with program := rest, resetIn := levels, wait := some n, latencyIn := ns }) ∧
    (s.st.busy = true → s.wait = none → s.latencyIn = [] →
      step s = match Config.latency s.draws with
        | 0 => .next (complete { s with resetIn := levels, draws := s.draws + 1 })
        | n + 1 => exec i { s with program := rest, resetIn := levels, wait := some n, draws := s.draws + 1 })

/-- A poll statement runs its read each step, IDLE or BUSY, and leaves the program only when the masked data matches.
Derived from 30_encoding.md R99, 20_memory.md R65, 20_memory.md R67, 43_commands.md R195, 70_reset_and_hazards.md
R258, notes/assumptions/8.md (polls held in the program, and a poll that sees SLVERR, are the model's own),
notes/assumptions/4.md (the latency fields are the model's own), notes/assumptions/1.md (the fault record and its
names are the model's own), notes/assumptions/9.md (the list of reset levels is the model's own). -/
def Obligations.PollRepeatsItsReadUntilItMatches : Prop :=
  ∀ (s : State) (off : BitVec 8) (mask val v : Word) (rest : List HostStmt) (levels : List Bool) (a : BusResp)
    (f : Option Fault),
    s.program = .poll off mask val :: rest → noReset s levels →
    ((∃ r : Reg, off = r.off ∧ exec (readInstr r) s = .next { s with resp := some (.okayRead v) } ∧
        a = .okayRead v ∧ f = s.hostFault) ∨
      ∃ e : BusError, (off.toNat % 4 ≠ 0 ∧ e = .misaligned ∨
        off.toNat % 4 = 0 ∧ 0x5C ≤ off.toNat ∧ e = .unmapped) ∧
        v = 0 ∧ a = .slverr ∧ f = s.hostFault.or (some (.slverr e))) →
    let p := if v &&& mask = val then rest else .poll off mask val :: rest
    (s.st.busy = false →
      step s = .next { s with program := p, resetIn := levels, wait := none, resp := some a, hostFault := f }) ∧
    (∀ n, s.st.busy = true → s.wait = some (n + 1) →
      step s = .next { s with program := p, resetIn := levels, wait := some n, resp := some a, hostFault := f }) ∧
    (∀ n ns, s.st.busy = true → s.wait = none → s.latencyIn = (n + 1) :: ns →
      step s = .next { s with
        program := p, resetIn := levels, wait := some n, latencyIn := ns, resp := some a, hostFault := f }) ∧
    (s.st.busy = true → s.wait = none → s.latencyIn = [] →
      step s = match Config.latency s.draws with
        | 0 => .next (complete { s with resetIn := levels, draws := s.draws + 1 })
        | n + 1 => .next { s with
            program := p, resetIn := levels, wait := some n, draws := s.draws + 1, resp := some a, hostFault := f })

/-- A narrow, misaligned or unmapped access gets SLVERR, changes nothing in the block, and the host records the fault.
Derived from 20_memory.md R63, 20_memory.md R64, 20_memory.md R65, 60_exceptions.md R215, 60_exceptions.md R216,
notes/assumptions/1.md (that only the first fault is kept, and its three names, are the model's choice),
notes/assumptions/10.md (the data 0 with SLVERR to a write is the model's choice), notes/assumptions/8.md, 4.md and
9.md (program, latency and reset-level fields are the model's own). -/
def Obligations.SlverrChangesNothingInTheBlock : Prop :=
  (∀ (t : Transaction) (s : State) (e : BusError),
    (t.size ≠ .four ∧ e = .narrow ∨ t.size = .four ∧ t.off.toNat % 4 ≠ 0 ∧ e = .misaligned ∨
      t.size = .four ∧ t.off.toNat % 4 = 0 ∧ 0x5C ≤ t.off.toNat ∧ e = .unmapped) →
    runTransaction t s = .next { s with
      resp := some .slverr, hostFault := s.hostFault.or (some (.slverr e)) } ∧
    (∀ rest levels, s.program = .bus t :: rest → noReset s levels → s.st.busy = false →
      step s = .next { s with
        program := rest, resetIn := levels, wait := none
        resp := some .slverr, hostFault := s.hostFault.or (some (.slverr e)) }) ∧
    (∀ rest levels n, s.program = .bus t :: rest → noReset s levels → s.st.busy = true → s.wait = some (n + 1) →
      step s = .next { s with
        program := rest, resetIn := levels, wait := some n
        resp := some .slverr, hostFault := s.hostFault.or (some (.slverr e)) })) ∧
  BusResp.rdata .slverr = some 0

/-- The decoder admits exactly the aligned 4-byte accesses at offsets 0x00 to 0x58, and the slot selects the register.
Derived from 30_encoding.md R91, 30_encoding.md R93, 20_memory.md R65, notes/assumptions/1.md (that a refused
transaction answers a next state and never a fault outcome is the model's choice), notes/assumptions/11.md (which row
a write of CMD is, is the model's choice). -/
def Obligations.DecodeAdmitsExactlyMappedWords : Prop :=
  (∀ t : Transaction, (∃ i, decode t = .ok i) ↔
    t.size = .four ∧ t.off.extractLsb' 0 2 = 0 ∧ (t.off.extractLsb' 2 6).toNat ≤ 22) ∧
  (∀ (t : Transaction) (r : Reg), t.size = .four → t.off = r.off →
    decode t = .ok (if t.write then writeInstr r t.wdata else readInstr r)) ∧
  (∀ r : Reg, regOfSlot (r.off.extractLsb' 2 6).toNat = some r) ∧
  (∀ k, 23 ≤ k → regOfSlot k = none) ∧
  ∀ (t : Transaction) (s : State), (¬∃ i, decode t = .ok i) →
    ∃ u, runTransaction t s = .next u ∧ u.resp = some .slverr ∧ u.st = s.st

/-- Decoding the encoding of a well-formed instruction gives it back, for every instruction and every operand value.
Derived from 30_encoding.md R90 to R94, 10_state.md section 3 (offsets), notes/assumptions/11.md (the canonical form
of a CMD write is the model's choice). -/
def Obligations.DecodeEncodeRoundTrip : Prop :=
  ∀ i : Instr, i.wf = true → decode (encode i) = .ok i

/-- A transaction that decodes to an instruction is the encoding of that well-formed instruction, but for the ignored
data of a read.  Derived from 30_encoding.md R91, 30_encoding.md R93, notes/assumptions/11.md (the canonical form of a
CMD write is the model's choice). -/
def Obligations.EncodeDecodeRoundTrip : Prop :=
  ∀ (t : Transaction) (i : Instr), decode t = .ok i →
    i.wf = true ∧ encode i = (if t.write then t else { t with wdata := 0 })

/-- The table-word decoder reads the numbered bits of every well-formed instruction back.  Derived from 30_encoding.md
R90, 30_encoding.md R91, notes/assumptions/5.md (the bit numbers of write, size and wdata are the model's choice),
notes/assumptions/11.md (the canonical form of a CMD write is the model's choice). -/
def Obligations.NumberedBitsRoundTrip : Prop :=
  (∀ t : Transaction, bitsOfTransaction t < 2 ^ 48 ∧ transactionOfBits (bitsOfTransaction t) = some t) ∧
  (∀ (w : Nat) (t : Transaction), transactionOfBits w = some t → bitsOfTransaction t = w) ∧
  (∀ i : Instr, i.wf = true → decodeTableWord 48 (bitsOfTransaction (encode i)) = some i) ∧
  ∀ w : Word, decodeTableWord 32 w.toNat = some (writeCmdInstr w)

/-- Words written out from the spec's encodings decode to the instructions they stand for.  Derived from
30_encoding.md R93, 30_encoding.md R91, 95_test_vectors.md 2.6, notes/assumptions/5.md (that a bare 8-bit table word
is the read of its register is the model's choice). -/
def Obligations.WrittenOutWordsDecode : Prop :=
  decodeTableWord 32 0x00000000 = some .nop ∧ decodeTableWord 32 0x00000001 = some .genCounter ∧
  decodeTableWord 32 0x00000002 = some .genTime ∧ decodeTableWord 32 0x00000003 = some .truncate ∧
  decodeTableWord 32 0x00000011 = some (.wrCmd 0x11) ∧
  decodeTableWord 8 0x00 = some .rdId ∧ decodeTableWord 8 0x24 = some .rdKeyLen ∧
  decodeTableWord 8 0x58 = some .rdDigestIn4 ∧ decodeTableWord 8 0x5C = none ∧
  decode ⟨0x04, .four, true, 0x00000006⟩ = .ok (.wrConfig 6) ∧
  decode ⟨0x2C, .four, true, 0xFFFFFFFF⟩ = .ok (.wrCounterHi 0xFFFFFFFF) ∧
  decode ⟨0x5C, .four, false, 0⟩ = .error .unmapped ∧ decode ⟨0x01, .four, false, 0⟩ = .error .misaligned ∧
  decode ⟨0x04, .two, false, 0⟩ = .error .narrow

/-- The state after reset meets the invariant.  Derived from 70_reset_and_hazards.md R240, 10_state.md R26,
notes/assumptions/2.md (KEY_CAP 64 at reset is the model's choice of the reference value). -/
def Obligations.ResetStateMeetsTheInvariant : Prop :=
  MachineInv State.reset

/-- Every step keeps: key within KEY_CAP, OVF only on a full buffer, the three flag laws, results 0 unless ready.
Derived from 10_state.md R26, 10_state.md R27, 10_state.md R28, 10_state.md R31, 10_state.md R39,
42_truncation_reduction.md R168, 93_implementation_defined.md U16, 00_scope.md R8, notes/assumptions/2.md (that
KEY_CAP is a field no step changes is the model's choice). -/
def Obligations.EveryStepKeepsTheInvariant : Prop :=
  ∀ s t : State, MachineInv s → step s = .next t → MachineInv t

/-- A recorded host fault is never cleared, and a step records one only for an SLVERR.  Derived from 60_exceptions.md
R216, 20_memory.md R65, notes/assumptions/1.md (that only the first fault is kept, in a next state, is the model's
choice). -/
def Obligations.HostFaultIsNeverCleared : Prop :=
  ∀ s t : State, step s = .next t →
    (∀ f, s.hostFault = some f → t.hostFault = some f) ∧
    (s.hostFault = none → t.hostFault ≠ none → t.resp = some .slverr ∧ t.st = s.st)

/-- The machine never stops: every step answers a next state.  Derived from 60_exceptions.md R211, 60_exceptions.md
R216, 60_exceptions.md R226, 20_memory.md R65, notes/assumptions/1.md (that a step that gets SLVERR answers a next
state and never a fault outcome is the model's choice), notes/assumptions/13.md (that a step with nothing to issue
answers a next state is the model's choice). -/
def Obligations.EveryStepAnswersANextState : Prop :=
  (∀ s : State, ∃ t, step s = .next t) ∧ ∀ (i : Instr) (s : State), ∃ t, exec i s = .next t

/-- Every accepted command completes (or is reset) within its latency plus one steps.  Derived from
70_reset_and_hazards.md R258, 43_commands.md R195, notes/assumptions/4.md (a finite drawn latency is the model's form
of fairness). -/
def Obligations.EveryCommandCompletes : Prop :=
  ∀ s : State, s.st.busy = true → ∃ (k : Nat) (u : State), k ≤ (drawLatency s).wait.getD 0 + 1 ∧
    Host.Core.run Sys2Proof.core k s = .next u ∧ u.st.busy = false

/-- A host poll loop on BUSY ends, in an idle state.  Derived from 70_reset_and_hazards.md R258, 30_encoding.md R100,
notes/assumptions/4.md (a finite drawn latency is the model's form of fairness), notes/assumptions/8.md (a poll held
in the program is the model's own). -/
def Obligations.PollOnBusyEnds : Prop :=
  ∀ (s : State) (rest : List HostStmt), s.program = .poll Reg.status.off 0x00000001#32 0x00000000#32 :: rest →
    ∃ (k : Nat) (u : State), Host.Core.run Sys2Proof.core k s = .next u ∧ u.program = rest ∧ u.st.busy = false

/-- While BUSY a step leaves the block as it is but for BUSY_WR, or is the completion, or is the reset.  Derived from
20_memory.md R66, 43_commands.md R196, 20_memory.md R76, 10_state.md R36. -/
def Obligations.BusyBlockChangesOnlyBusyWrUntilItCompletes : Prop :=
  ∀ s t : State, s.st.busy = true → step s = .next t →
    ((∃ levels, s.resetIn = true :: levels) ∧ t.st = Block.reset) ∨ t.st = (complete s).st ∨ t.st = s.st ∨
      t.st = { s.st with busyWr := true }

/-- Two states with the same latch complete to the same CODE, SNUM, OFFSET and flags.  Derived from 43_commands.md
R196, 41_hmac_sha1.md R131, 41_hmac_sha1.md R133, 93_implementation_defined.md U16. -/
def Obligations.ResultDependsOnTheLatchAlone : Prop :=
  (∀ (s t : State) (l : Latch), s.st.latch = some l → t.st.latch = some l →
    (∀ j, l = .genCounter j ∨ l = .genTime j → j.keyOvf = false) ∨ MachineInv s ∧ MachineInv t →
    (complete s).st.code = (complete t).st.code ∧ (complete s).st.snum = (complete t).st.snum ∧
    (complete s).st.offset = (complete t).st.offset ∧ (complete s).st.done = (complete t).st.done ∧
    (complete s).st.err = (complete t).st.err ∧ (complete s).st.errcode = (complete t).st.errcode) ∧
  ∀ (s t : State) (j : HmacJob), s.st.latch = some (.genCounter j) → t.st.latch = some (.genTime j) →
    j.keyOvf = false ∨ MachineInv s ∧ MachineInv t →
    (complete s).st.code = (complete t).st.code ∧ (complete s).st.snum = (complete t).st.snum ∧
    (complete s).st.offset = (complete t).st.offset ∧ (complete s).st.done = (complete t).st.done ∧
    (complete s).st.err = (complete t).st.err ∧ (complete s).st.errcode = (complete t).st.errcode

/-- GEN_COUNTER result law: from counter k, CODE = truncate_reduce(HMAC_SHA1(K, be64(k)), d).code and the counter is k
+ 1.  States R186. -/
def Obligations.HotpResultLaw : Prop :=
  (∀ (s : State) (d : Digits), s.st.busy = false → s.st.digits.toNat = d.val → s.st.keyOvf = false →
    ∃ t : State, exec .genCounter s = .next t ∧ t.st.busy = true ∧
      ∀ (n : Nat) (v u : State), staysBusy n t v → step v = .next u → u.st.busy = false →
        (∀ levels, v.resetIn ≠ true :: levels) →
        resultReady u.st ∧
        u.st.code = (truncateReduce (hmacSha1 s.st.key (be64 s.st.counter)) d).code ∧
        u.st.snum = (truncateReduce (hmacSha1 s.st.key (be64 s.st.counter)) d).snum ∧
        u.st.offset = (truncateReduce (hmacSha1 s.st.key (be64 s.st.counter)) d).offset ∧
        u.st.counter.toNat = (s.st.counter.toNat + 1) % 2 ^ 64) ∧
  ∀ (s : State) (d : Digits), s.st.busy = false → s.st.digits.toNat = d.val → s.st.keyOvf = false →
    (counterRound s).st.code = (truncateReduce (hmacSha1 s.st.key (be64 s.st.counter)) d).code ∧
    (counterRound (counterRound s)).st.code = (truncateReduce (hmacSha1 s.st.key (be64 (s.st.counter + 1))) d).code

/-- GEN_TIME result law: CODE = truncate_reduce(HMAC_SHA1(K, be64((n - t0) div step)), d).code for the sample n.
Derived from 43_commands.md R189, 43_commands.md R187, 43_commands.md R188, notes/assumptions/3.md (a sample from a
script or a free value is the model's form). -/
def Obligations.TotpResultLaw : Prop :=
  ∀ (s : State) (d : Digits) (n : Dword) (u0 : State), s.st.busy = false → s.st.digits.toNat = d.val →
    s.st.keyOvf = false → s.st.step ≠ 0 → sampled s n u0 → s.st.t0.toNat ≤ n.toNat →
    ∃ t : State, exec .genTime s = .next t ∧ t.st.busy = true ∧
      ∀ (m : Nat) (v u : State), staysBusy m t v → step v = .next u → u.st.busy = false →
        (∀ levels, v.resetIn ≠ true :: levels) →
        resultReady u.st ∧
        u.st.code = (truncateReduce (hmacSha1 s.st.key
          (be64 (BitVec.ofNat 64 ((n.toNat - s.st.t0.toNat) / s.st.step.toNat)))) d).code ∧
        u.st.timeSample = n ∧ u.st.counter = s.st.counter ∧ u.st.t0 = s.st.t0 ∧ u.st.step = s.st.step

/-- Samples in the same step window give the same moving factor, and different windows give different ones.  Derived
from 40_byte_source.md R120, 40_byte_source.md R118. -/
def Obligations.TimeWindowStability : Prop :=
  ∀ t0 step n m : Dword, step ≠ 0 → t0.toNat ≤ n.toNat → t0.toNat ≤ m.toNat →
    (timeFactor n t0 step = timeFactor m t0 step ↔
      (n.toNat - t0.toNat) / step.toNat = (m.toNat - t0.toNat) / step.toNat)

/-- Counter sequence law: the i-th of n commands gives the code of counter k + i, also across HMAC_INIT failures.
Derived from 40_byte_source.md R113, 40_byte_source.md R112, 70_reset_and_hazards.md R254. -/
def Obligations.CounterSequenceLaw : Prop :=
  ∀ (n : Nat) (s : State), s.st.busy = false → s.st.digits.toNat ≤ 9 →
    (counterRound^[n] s).st.counter.toNat = (s.st.counter.toNat + n) % 2 ^ 64 ∧
    (counterRound^[n] s).st.busy = false ∧ (counterRound^[n] s).st.key = s.st.key ∧
    (counterRound^[n] s).st.keyOvf = s.st.keyOvf ∧ (counterRound^[n] s).st.digits = s.st.digits ∧
    (counterRound^[n + 1] s).st.code =
      (counterRound { s with st := { s.st with counter := s.st.counter + BitVec.ofNat 64 n } }).st.code ∧
    (counterRound^[n + 1] s).st.errcode =
      (counterRound { s with st := { s.st with counter := s.st.counter + BitVec.ofNat 64 n } }).st.errcode

/-- HMAC_INIT: a GEN_COUNTER with dropped key bytes fails at completion, results 0, counter advanced by 1.  States
R133. -/
def Obligations.HmacInitLeavesTheCounterAdvanced : Prop :=
  ∀ s : State, s.st.busy = false → s.st.digits.toNat ≤ 9 → s.st.keyOvf = true →
    ∃ t : State, exec .genCounter s = .next t ∧ t.st.busy = true ∧
      ∀ (n : Nat) (v u : State), staysBusy n t v → step v = .next u → u.st.busy = false →
        (∀ levels, v.resetIn ≠ true :: levels) →
        u.st.done = true ∧ u.st.err = true ∧ errBits u.st.errcode = 1#4 ∧ u.st.code = 0 ∧ u.st.snum = 0 ∧
        u.st.offset = 0 ∧ u.st.counter = s.st.counter + 1

/-- No answer of the block depends on the key bytes, the counter or the contents of the latch.  Derived from
41_hmac_sha1.md R145, 10_state.md R33, 10_state.md R36, 60_exceptions.md R219. -/
def Obligations.KeyAndCounterAreNeverReadable : Prop :=
  ∀ (i : Instr) (s t t' : State) (key' : List Byte) (counter' : Dword) (latch' : Option Latch),
    key'.length = s.st.key.length → latch'.isSome = s.st.latch.isSome →
    exec i s = .next t →
    exec i { s with st := { s.st with key := key', counter := counter', latch := latch' } } = .next t' →
    t'.resp = t.resp

/-- The counter changes only by reset, a write of its halves when IDLE, or an accepted GEN_COUNTER, which adds 1.
Derived from 20_memory.md R79, 40_byte_source.md R112, 40_byte_source.md R122, 43_commands.md R184. -/
def Obligations.OnlyTheseEventsChangeTheCounter : Prop :=
  ∀ s t : State, step s = .next t → t.st.counter ≠ s.st.counter →
    (∃ levels, s.resetIn = true :: levels) ∨
    s.st.busy = false ∧ ∃ tr rest i, s.program = .bus tr :: rest ∧ decode tr = .ok i ∧
      ((∃ w, i = .wrCounterLo w) ∨ (∃ w, i = .wrCounterHi w) ∨
        i = .genCounter ∧ s.st.digits.toNat ≤ 9 ∧ t.st.counter = s.st.counter + 1)

/-- IDLE goes to BUSY only by an acceptance that passes its checks; BUSY goes to IDLE only by completion or reset.
States R45. -/
def Obligations.SequencerTransitions : Prop :=
  ∀ s t : State, (s.st.busy = true ↔ s.st.latch ≠ none) ∧ (s.st.busy = false → complete s = s) ∧ (step s = .next t →
    (s.st.busy = false → t.st.busy = true →
      ∃ tr rest i, s.program = .bus tr :: rest ∧ decode tr = .ok i ∧ s.st.digits.toNat ≤ 9 ∧
        (i = .genCounter ∨ i = .truncate ∨
          i = .genTime ∧ s.st.step ≠ 0 ∧ t.st.t0.toNat ≤ t.st.timeSample.toNat)) ∧
    (s.st.busy = true → t.st.busy = false →
      (∃ levels, s.resetIn = true :: levels) ∨ t.st = (complete s).st))

/-- No instruction but GEN_COUNTER, GEN_TIME, TRUNCATE and a CMD write changes CODE, SNUM, OFFSET, DONE, ERR or
ERRCODE.  Derived from 43_commands.md R199, 10_state.md R43. -/
def Obligations.OnlyCommandsTouchResultsAndStatus : Prop :=
  ∀ (i : Instr) (s t : State), i ≠ .genCounter → i ≠ .genTime → i ≠ .truncate → (∀ w, i ≠ .wrCmd w) →
    exec i s = .next t →
    t.st.code = s.st.code ∧ t.st.snum = s.st.snum ∧ t.st.offset = s.st.offset ∧ t.st.done = s.st.done ∧
    t.st.err = s.st.err ∧ t.st.errcode = s.st.errcode ∧ t.st.latch = s.st.latch ∧
    (t.st.busyWr = s.st.busyWr ∨ t.st.busyWr = true ∧ s.st.busy = true ∧ (encode i).write = true)

/-- Reads and writes of CONFIG, COUNTER, T0, STEP, DIGEST_IN, KEY_CLR are idempotent; KEY_DATA with room and
GEN_COUNTER are not.  Derived from 20_memory.md R73. -/
def Obligations.ReadsAndConfigurationWritesAreIdempotent : Prop :=
  (∀ (i : Instr) (s t : State),
    ((encode i).write = false ∨ s.st.busy = true ∨ ∃ w, i ∈ [Instr.wrConfig w, .wrKeyClr w, .wrCounterLo w,
      .wrCounterHi w, .wrT0Lo w, .wrT0Hi w, .wrStepLo w, .wrStepHi w, .wrDigestIn0 w, .wrDigestIn1 w, .wrDigestIn2 w,
      .wrDigestIn3 w, .wrDigestIn4 w]) →
    exec i s = .next t → exec i t = .next t) ∧
  (∀ (s t u : State) (w : Word), s.st.busy = false →
    exec (.wrKeyData w) s = .next t → exec (.wrKeyData w) t = .next u →
    (s.st.key.length + 1 < s.keyCap → u.st.key.length = s.st.key.length + 2 ∧ u.st.keyOvf = s.st.keyOvf) ∧
    (s.st.key.length + 1 = s.keyCap → t.st.key.length = s.st.key.length + 1 ∧ t.st.keyOvf = s.st.keyOvf ∧
      u.st.key = t.st.key ∧ u.st.keyOvf = true) ∧
    (s.keyCap ≤ s.st.key.length → u = t)) ∧
  (∀ s : State, s.st.busy = false → s.st.digits.toNat ≤ 9 →
    ∃ t u v : State, exec .genCounter s = .next t ∧ t.st.counter = s.st.counter + 1 ∧ t.st.busyWr = false ∧
      exec .genCounter t = .next u ∧ u.st = { t.st with busyWr := true } ∧ u ≠ t ∧
      exec .genCounter (complete t) = .next v ∧ v.st.counter = s.st.counter + 2) ∧
  ∀ (i : Instr) (s t : State), s.st.busy = false →
    (i = .genCounter ∨ i = .genTime ∨ i = .truncate ∨ ∃ w, i = .wrCmd w ∧ w ≠ 0) → exec i s = .next t →
    t.st.code = 0 ∧ t.st.snum = 0 ∧ t.st.offset = 0

/-- Writing _LO and _HI when IDLE, in either order, gives (HI << 32) | LO in COUNTER, T0 and STEP, and T0 and STEP
read back.  Derived from 30_encoding.md R95, 20_memory.md R70, 70_reset_and_hazards.md R252. -/
def Obligations.BothHalvesMakeTheWholeRegister : Prop :=
  ∀ (s t u : State) (lo hi : Word), s.st.busy = false →
    (exec (.wrCounterLo lo) s = .next t → exec (.wrCounterHi hi) t = .next u →
      u.st.counter.toNat = hi.toNat * 2 ^ 32 + lo.toNat) ∧
    (exec (.wrCounterHi hi) s = .next t → exec (.wrCounterLo lo) t = .next u →
      u.st.counter.toNat = hi.toNat * 2 ^ 32 + lo.toNat) ∧
    (exec (.wrT0Lo lo) s = .next t → exec (.wrT0Hi hi) t = .next u →
      u.st.t0.toNat = hi.toNat * 2 ^ 32 + lo.toNat ∧
      exec .rdT0Lo u = .next { u with resp := some (.okayRead lo) } ∧
      exec .rdT0Hi u = .next { u with resp := some (.okayRead hi) }) ∧
    (exec (.wrT0Hi hi) s = .next t → exec (.wrT0Lo lo) t = .next u →
      u.st.t0.toNat = hi.toNat * 2 ^ 32 + lo.toNat ∧
      exec .rdT0Lo u = .next { u with resp := some (.okayRead lo) } ∧
      exec .rdT0Hi u = .next { u with resp := some (.okayRead hi) }) ∧
    (exec (.wrStepLo lo) s = .next t → exec (.wrStepHi hi) t = .next u →
      u.st.step.toNat = hi.toNat * 2 ^ 32 + lo.toNat ∧
      exec .rdStepLo u = .next { u with resp := some (.okayRead lo) } ∧
      exec .rdStepHi u = .next { u with resp := some (.okayRead hi) }) ∧
    (exec (.wrStepHi hi) s = .next t → exec (.wrStepLo lo) t = .next u →
      u.st.step.toNat = hi.toNat * 2 ^ 32 + lo.toNat ∧
      exec .rdStepLo u = .next { u with resp := some (.okayRead lo) } ∧
      exec .rdStepHi u = .next { u with resp := some (.okayRead hi) })

/-- No step changes KEY_CAP, and an instruction changes nothing outside the block but the bus answer and, for
GEN_TIME, the sample taken.  Derived from 00_scope.md R8, 40_byte_source.md R116, notes/assumptions/2.md (that KEY_CAP
is a field no step changes is the model's choice), notes/assumptions/15.md (the environment fields are the model's
own), notes/assumptions/3.md, 4.md, 8.md and 9.md (what each of them stands for). -/
def Obligations.ParameterAndEnvironmentAreKept : Prop :=
  (∀ s t : State, step s = .next t → t.keyCap = s.keyCap) ∧
  ∀ (i : Instr) (s t : State), exec i s = .next t →
    t.keyCap = s.keyCap ∧ t.program = s.program ∧ t.hostFault = s.hostFault ∧ t.resetIn = s.resetIn ∧
    t.latencyIn = s.latencyIn ∧ t.wait = s.wait ∧
    (i ≠ .genTime → (∀ w, i ≠ .wrCmd w) → t.nowIn = s.nowIn ∧ t.draws = s.draws)

/-- The register window is the 256 system addresses from BASE_ADDR, one for each offset.  Derived from 00_scope.md R8,
20_memory.md R61, 92_eei_decisions.md D1, notes/assumptions/17.md (that system addresses are natural numbers that do
not wrap is the model's choice). -/
def Obligations.WindowIsThe256BytesAtTheBaseAddress : Prop :=
  (∀ (a : Nat) (off : BitVec 8), windowOffset a = some off ↔ a = Config.baseAddr + off.toNat) ∧
  systemAddress 0x00 = Config.baseAddr ∧ (∀ off : BitVec 8, windowOffset (systemAddress off) = some off) ∧
  ∀ a : Nat, windowOffset a = none ↔ a < Config.baseAddr ∨ Config.baseAddr + 256 ≤ a
end

