-- ==== Sys2Proof/Laws/Decode.lean ====
section
/-! SUPPORT. What the address check and the decoder answer. -/

namespace Sys2Proof

/-- The offset at a system address is the distance from BASE_ADDR, where that is below 256. -/
theorem windowOffset_eq_some_iff {a : Nat} {off : BitVec 8} : windowOffset a = some off ↔ a = systemAddress off := by
  have hlt := off.isLt
  unfold windowOffset systemAddress
  constructor
  · intro h
    split at h <;> cases h
    simp only [BitVec.toNat_ofNat]
    omega
  · rintro rfl
    simp [hlt]

/-- Every register is admitted at its own offset. -/
@[simp] theorem checkAddress_off (r : Reg) : checkAddress r.off .four = .ok r := by cases r <;> rfl

/-- An access that is not 4 bytes wide is refused as narrow. -/
theorem checkAddress_narrow {off : BitVec 8} {z : Size} (hz : z ≠ .four) : checkAddress off z = .error .narrow := by
  simp [checkAddress, hz]

/-- A 4-byte access at an offset that is no multiple of 4 is refused as misaligned. -/
theorem checkAddress_misaligned {off : BitVec 8} (h : off.toNat % 4 ≠ 0) : checkAddress off .four = .error .misaligned := by
  simp [checkAddress, h]

/-- An aligned 4-byte access past the last register is refused as unmapped. -/
theorem checkAddress_unmapped {off : BitVec 8} (h : off.toNat % 4 = 0) (hu : 0x5C ≤ off.toNat) :
    checkAddress off .four = .error .unmapped := by
  have : regOfSlot (off.toNat / 4) = none := by
    unfold regOfSlot
    split <;> first | omega | rfl
  simp [checkAddress, h, this]

/-- A slot holds a register exactly where four times the slot is the register's offset. -/
theorem regOfSlot_eq_some_iff {k : Nat} {r : Reg} : regOfSlot k = some r ↔ 4 * k = r.off.toNat := by
  constructor
  · intro h
    unfold regOfSlot at h
    split at h <;> cases h <;> rfl
  · intro h
    rcases Nat.lt_or_ge k 23 with hk | hk
    · interval_cases k <;> cases r <;> first | rfl | exact absurd h (by decide)
    · have : r.off.toNat ≤ 88 := by cases r <;> decide
      omega

/-- Exactly the 4-byte accesses at a register's offset are let through, to that register. -/
theorem checkAddress_eq_ok_iff {off : BitVec 8} {z : Size} {r : Reg} :
    checkAddress off z = .ok r ↔ z = .four ∧ off = r.off := by
  refine ⟨fun h => ?_, ?_⟩
  · unfold checkAddress at h
    split_ifs at h with hz ha
    split at h
    · rename_i hr
      cases h
      rw [regOfSlot_eq_some_iff] at hr
      exact ⟨hz, BitVec.eq_of_toNat_eq (by omega)⟩
    · cases h
  · rintro ⟨rfl, rfl⟩
    exact checkAddress_off r

/-- A decoded transaction is a read or a write of the register at its offset. -/
theorem decode_ok_iff {t : Transaction} {i : Instr} :
    decode t = .ok i ↔ ∃ r, checkAddress t.off t.size = .ok r ∧ (if t.write then writeInstr r t.wdata else readInstr r) = i := by
  unfold decode
  cases h : checkAddress t.off t.size <;> simp

/-- A refused transaction is refused by the address check. -/
theorem decode_error_iff {t : Transaction} {e : BusError} :
    decode t = .error e ↔ checkAddress t.off t.size = .error e := by
  unfold decode
  cases h : checkAddress t.off t.size <;> simp

@[simp] theorem decode_readAt (r : Reg) : decode (readAt r.off) = .ok (readInstr r) := by
  simp [decode, readAt]

@[simp] theorem decode_writeAt (r : Reg) (w : Word) : decode (writeAt r.off w) = .ok (writeInstr r w) := by
  simp [decode, writeAt]

/-- A word is a legal command word exactly when it does not decode to ILLEGAL (30_encoding.md R92, R94). -/
theorem legalCmdWord_iff (w : Word) : legalCmdWord w = true ↔ decodeCmd w ≠ .illegal := by
  have h : legalCmdWord w = true ↔ (w = 0#32 ∨ w = 1#32 ∨ w = 2#32 ∨ w = 3#32) := by
    simp only [legalCmdWord, Bool.and_eq_true, beq_iff_eq, decide_eq_true_eq, ← BitVec.toNat_inj,
      BitVec.extractLsb'_toNat, BitVec.ofNat_eq_ofNat, BitVec.toNat_ofNat, Nat.shiftRight_eq_div_pow, Nat.pow_zero, Nat.div_one]
    have := w.isLt
    constructor
    · intro ⟨h1, h2⟩; omega
    · omega
  rw [h]
  unfold decodeCmd
  split_ifs <;> simp_all

/-- An illegal command word decodes to the row WR.CMD. -/
theorem writeCmdInstr_of_illegal {w : Word} (h : decodeCmd w = .illegal) : writeCmdInstr w = .wrCmd w := by
  simp [writeCmdInstr, h]

end Sys2Proof
end

