-- ==== Sys2Proof/Laws/Operands.lean ====
section
/-! SUPPORT. What the operand helpers compute: halves, digest words, byte order, key bytes. -/

namespace Sys2Proof.Machine

/-- A _LO write keeps the high half and sets the low one (10_state.md R33). -/
theorem setLow_eq (v : Dword) (w : Word) : setLow v w = v.extractLsb' 32 32 ++ w := by
  apply BitVec.eq_of_getLsbD_eq
  intro i hi
  have hm : (0xFFFFFFFF00000000#64).getLsbD i = decide (32 ≤ i) := by revert i; decide
  simp only [setLow, BitVec.getLsbD_or, BitVec.getLsbD_and, BitVec.getLsbD_setWidth, BitVec.getLsbD_append,
    BitVec.getLsbD_extractLsb', hm]
  by_cases h : i < 32
  · simp [h, hi]
  · have h1 : 32 ≤ i := by omega
    have h2 : i - 32 < 32 := by omega
    have h3 : 32 + (i - 32) = i := by omega
    simp [h, h1, h2, h3]

/-- A _HI write sets the high half and keeps the low one (10_state.md R33). -/
theorem setHigh_eq (v : Dword) (w : Word) : setHigh v w = w ++ v.extractLsb' 0 32 := by
  apply BitVec.eq_of_getLsbD_eq
  intro i hi
  have hm : (0x00000000FFFFFFFF#64).getLsbD i = decide (i < 32) := by revert i; decide
  simp only [setHigh, BitVec.getLsbD_or, BitVec.getLsbD_and, BitVec.getLsbD_shiftLeft, BitVec.getLsbD_setWidth,
    BitVec.getLsbD_append, BitVec.getLsbD_extractLsb', hm]
  by_cases h : i < 32
  · simp [h, hi]
  · have h1 : i - 32 < 64 := by omega
    simp [h, h1, hi]

/-- Writing the same low half twice is writing it once (20_memory.md R73). -/
theorem setLow_idem (v : Dword) (w : Word) : setLow (setLow v w) w = setLow v w := by
  apply BitVec.eq_of_getLsbD_eq
  intro i hi
  simp only [setLow, BitVec.getLsbD_or, BitVec.getLsbD_and, BitVec.getLsbD_setWidth]
  have : (0xFFFFFFFF00000000#64).getLsbD i = decide (32 ≤ i) := by revert i; decide
  rw [this]
  by_cases h : i < 32
  · have : ¬ 32 ≤ i := by omega
    simp [this]
  · have : 32 ≤ i := by omega
    simp [this]

/-- Writing the same high half twice is writing it once (20_memory.md R73). -/
theorem setHigh_idem (v : Dword) (w : Word) : setHigh (setHigh v w) w = setHigh v w := by
  apply BitVec.eq_of_getLsbD_eq
  intro i hi
  simp only [setHigh, BitVec.getLsbD_or, BitVec.getLsbD_and, BitVec.getLsbD_shiftLeft, BitVec.getLsbD_setWidth]
  have : (0x00000000FFFFFFFF#64).getLsbD i = decide (i < 32) := by revert i; decide
  rw [this]
  by_cases h : i < 32 <;> simp [h]

/-- Writing the same digest word twice is writing it once (20_memory.md R73). -/
theorem setDigestWord_idem (v : Digest) (k : Fin 5) (w : Word) : setDigestWord (setDigestWord v k w) k w = setDigestWord v k w := by
  ext1 j hj
  simp only [setDigestWord, Vector.getElem_set]
  split_ifs <;> rfl

/-- The number two halves make, high half first. -/
theorem append_toNat (hi lo : Word) : (hi ++ lo).toNat = hi.toNat * 2 ^ 32 + lo.toNat := by
  rw [BitVec.toNat_append, ← Nat.shiftLeft_add_eq_or_of_lt lo.isLt, Nat.shiftLeft_eq]

/-- The low half of two halves put together. -/
theorem extractLow_append (hi lo : Word) : (hi ++ lo).extractLsb' 0 32 = lo := by
  apply BitVec.eq_of_toNat_eq
  rw [BitVec.extractLsb'_toNat, append_toNat]
  have := lo.isLt
  simp
  omega

/-- The high half of two halves put together. -/
theorem extractHigh_append (hi lo : Word) : (hi ++ lo).extractLsb' 32 32 = hi := by
  apply BitVec.eq_of_toNat_eq
  rw [BitVec.extractLsb'_toNat, append_toNat]
  have := lo.isLt
  have := hi.isLt
  simp [Nat.shiftRight_eq_div_pow]
  omega

/-- _LO then _HI makes the whole register, whatever it held (10_state.md R33). -/
theorem setHigh_setLow (v : Dword) (lo hi : Word) : setHigh (setLow v lo) hi = hi ++ lo := by
  rw [setHigh_eq, setLow_eq, extractLow_append]

/-- _HI then _LO makes the whole register, whatever it held (10_state.md R33). -/
theorem setLow_setHigh (v : Dword) (lo hi : Word) : setLow (setHigh v hi) lo = hi ++ lo := by
  rw [setLow_eq, setHigh_eq, extractHigh_append]

/-- A DIGEST_INk write sets byte `j` where `j / 4` is `k`, and no other (10_state.md R38). -/
theorem setDigestWord_eq (d : Digest) (k : Fin 5) (w : Word) : setDigestWord d k w = Vector.ofFn fun j : Fin 20 =>
    if j.val / 4 = k.val then w.extractLsb' (8 * (3 - j.val % 4)) 8 else d[j] := by
  ext1 j hj
  have hk := k.isLt
  simp only [setDigestWord, Vector.getElem_set, Vector.getElem_ofFn, byteOf]
  split_ifs <;> first | rfl | omega | (congr 1; omega)

/-- `be64` puts byte `7 - i` at index `i` (00_scope.md R12). -/
theorem be64_getElem (v : Dword) (i : Fin 8) : (be64 v)[i] = byteOf v (7 - i.val) := by
  fin_cases i <;> rfl

/-- `be64` loses nothing: different values have different moving factors. -/
theorem be64_injective : Function.Injective be64 := by
  intro a b h
  apply BitVec.eq_of_getLsbD_eq
  intro i hi
  have hj : (be64 a)[(⟨7 - i / 8, by omega⟩ : Fin 8)] = (be64 b)[(⟨7 - i / 8, by omega⟩ : Fin 8)] := by rw [h]
  rw [be64_getElem, be64_getElem] at hj
  have hb := congrArg (fun x => x.getLsbD (i % 8)) hj
  simp only [byteOf, BitVec.getLsbD_extractLsb'] at hb
  have h1 : i % 8 < 8 := Nat.mod_lt _ (by decide)
  have h2 : 8 * (7 - (7 - i / 8)) + i % 8 = i := by omega
  simpa [h1, h2] using hb

/-- `be32dec` is the big-endian number of its bytes (00_scope.md R12). -/
theorem be32dec_toNat (b0 b1 b2 b3 : Byte) : (be32dec b0 b1 b2 b3).toNat =
    b0.toNat * 2 ^ 24 + b1.toNat * 2 ^ 16 + b2.toNat * 2 ^ 8 + b3.toNat := by
  have h0 := b0.isLt
  have h1 := b1.isLt
  have h2 := b2.isLt
  have h3 := b3.isLt
  have join : ∀ x y k, y < 2 ^ k → x * 2 ^ k ||| y = x * 2 ^ k + y := by
    intro x y k h
    rw [Nat.mul_comm, ← Nat.two_pow_add_eq_or_of_lt h]
  simp only [be32dec, BitVec.toNat_or, BitVec.toNat_shiftLeft, BitVec.toNat_setWidth, Nat.shiftLeft_eq]
  rw [Nat.mod_eq_of_lt (a := b0.toNat) (by omega), Nat.mod_eq_of_lt (a := b1.toNat) (by omega),
    Nat.mod_eq_of_lt (a := b2.toNat) (by omega), Nat.mod_eq_of_lt (a := b3.toNat) (by omega),
    Nat.mod_eq_of_lt (by omega), Nat.mod_eq_of_lt (by omega), Nat.mod_eq_of_lt (by omega)]
  have e1 : b0.toNat * 2 ^ 24 ||| b1.toNat * 2 ^ 16 = (b0.toNat * 2 ^ 8 + b1.toNat) * 2 ^ 16 := by
    rw [join _ _ 24 (by omega)]; omega
  have e2 : (b0.toNat * 2 ^ 8 + b1.toNat) * 2 ^ 16 ||| b2.toNat * 2 ^ 8 =
      ((b0.toNat * 2 ^ 8 + b1.toNat) * 2 ^ 8 + b2.toNat) * 2 ^ 8 := by
    rw [join _ _ 16 (by omega)]; omega
  rw [e1, e2, join _ _ 8 (by omega)]
  omega

/-- KEY_DATA with room in the buffer appends the byte (10_state.md R31). -/
theorem appendKeyByte_of_lt {cap : Nat} {b : Block} (h : b.key.length < cap) (k : Byte) :
    appendKeyByte cap k b = { b with key := b.key ++ [k] } := by
  simp [appendKeyByte, Block.keyLen, h]

/-- KEY_DATA with the buffer full sets OVF (10_state.md R31). -/
theorem appendKeyByte_of_ge {cap : Nat} {b : Block} (h : cap ≤ b.key.length) (k : Byte) :
    appendKeyByte cap k b = { b with keyOvf := true } := by
  simp [appendKeyByte, Block.keyLen, Nat.not_lt.mpr h]

end Sys2Proof.Machine
end

