-- ==== Sys2Proof/Laws/State.lean ====
section
/-! SUPPORT. The small lemmas of the state's updates: one per field per update, true by rfl, so that no later proof unfolds
a record update; and the views of the block. -/

namespace Sys2Proof.Machine

/-! ### onSt -/

@[simp] theorem onSt_keyCap (f : Block → Block) (s : State) : (s.onSt f).keyCap = s.keyCap := rfl
@[simp] theorem onSt_st (f : Block → Block) (s : State) : (s.onSt f).st = f s.st := rfl
@[simp] theorem onSt_program (f : Block → Block) (s : State) : (s.onSt f).program = s.program := rfl
@[simp] theorem onSt_resp (f : Block → Block) (s : State) : (s.onSt f).resp = s.resp := rfl
@[simp] theorem onSt_hostFault (f : Block → Block) (s : State) : (s.onSt f).hostFault = s.hostFault := rfl
@[simp] theorem onSt_resetIn (f : Block → Block) (s : State) : (s.onSt f).resetIn = s.resetIn := rfl
@[simp] theorem onSt_nowIn (f : Block → Block) (s : State) : (s.onSt f).nowIn = s.nowIn := rfl
@[simp] theorem onSt_latencyIn (f : Block → Block) (s : State) : (s.onSt f).latencyIn = s.latencyIn := rfl
@[simp] theorem onSt_draws (f : Block → Block) (s : State) : (s.onSt f).draws = s.draws := rfl
@[simp] theorem onSt_wait (f : Block → Block) (s : State) : (s.onSt f).wait = s.wait := rfl

/-! ### answer -/

@[simp] theorem answer_keyCap (r : BusResp) (s : State) : (s.answer r).keyCap = s.keyCap := rfl
@[simp] theorem answer_st (r : BusResp) (s : State) : (s.answer r).st = s.st := rfl
@[simp] theorem answer_program (r : BusResp) (s : State) : (s.answer r).program = s.program := rfl
@[simp] theorem answer_resp (r : BusResp) (s : State) : (s.answer r).resp = some r := rfl
@[simp] theorem answer_hostFault (r : BusResp) (s : State) : (s.answer r).hostFault = s.hostFault := rfl
@[simp] theorem answer_resetIn (r : BusResp) (s : State) : (s.answer r).resetIn = s.resetIn := rfl
@[simp] theorem answer_nowIn (r : BusResp) (s : State) : (s.answer r).nowIn = s.nowIn := rfl
@[simp] theorem answer_latencyIn (r : BusResp) (s : State) : (s.answer r).latencyIn = s.latencyIn := rfl
@[simp] theorem answer_draws (r : BusResp) (s : State) : (s.answer r).draws = s.draws := rfl
@[simp] theorem answer_wait (r : BusResp) (s : State) : (s.answer r).wait = s.wait := rfl

/-! ### busError -/

@[simp] theorem busError_keyCap (e : BusError) (s : State) : (busError e s).keyCap = s.keyCap := rfl
@[simp] theorem busError_st (e : BusError) (s : State) : (busError e s).st = s.st := rfl
@[simp] theorem busError_program (e : BusError) (s : State) : (busError e s).program = s.program := rfl
@[simp] theorem busError_resp (e : BusError) (s : State) : (busError e s).resp = some .slverr := rfl
@[simp] theorem busError_hostFault (e : BusError) (s : State) : (busError e s).hostFault = s.hostFault.or (some (.slverr e)) := rfl
@[simp] theorem busError_resetIn (e : BusError) (s : State) : (busError e s).resetIn = s.resetIn := rfl
@[simp] theorem busError_nowIn (e : BusError) (s : State) : (busError e s).nowIn = s.nowIn := rfl
@[simp] theorem busError_latencyIn (e : BusError) (s : State) : (busError e s).latencyIn = s.latencyIn := rfl
@[simp] theorem busError_draws (e : BusError) (s : State) : (busError e s).draws = s.draws := rfl
@[simp] theorem busError_wait (e : BusError) (s : State) : (busError e s).wait = s.wait := rfl

/-! ### resetBlock -/

@[simp] theorem resetBlock_keyCap (s : State) : (resetBlock s).keyCap = s.keyCap := rfl
@[simp] theorem resetBlock_st (s : State) : (resetBlock s).st = Block.reset := rfl
@[simp] theorem resetBlock_program (s : State) : (resetBlock s).program = s.program := rfl
@[simp] theorem resetBlock_resp (s : State) : (resetBlock s).resp = s.resp := rfl
@[simp] theorem resetBlock_hostFault (s : State) : (resetBlock s).hostFault = s.hostFault := rfl
@[simp] theorem resetBlock_resetIn (s : State) : (resetBlock s).resetIn = s.resetIn := rfl
@[simp] theorem resetBlock_nowIn (s : State) : (resetBlock s).nowIn = s.nowIn := rfl
@[simp] theorem resetBlock_latencyIn (s : State) : (resetBlock s).latencyIn = s.latencyIn := rfl
@[simp] theorem resetBlock_draws (s : State) : (resetBlock s).draws = s.draws := rfl
@[simp] theorem resetBlock_wait (s : State) : (resetBlock s).wait = none := rfl

/-! ### tickWait -/

@[simp] theorem tickWait_keyCap (s : State) : (tickWait s).keyCap = s.keyCap := rfl
@[simp] theorem tickWait_st (s : State) : (tickWait s).st = s.st := rfl
@[simp] theorem tickWait_program (s : State) : (tickWait s).program = s.program := rfl
@[simp] theorem tickWait_resp (s : State) : (tickWait s).resp = s.resp := rfl
@[simp] theorem tickWait_hostFault (s : State) : (tickWait s).hostFault = s.hostFault := rfl
@[simp] theorem tickWait_resetIn (s : State) : (tickWait s).resetIn = s.resetIn := rfl
@[simp] theorem tickWait_nowIn (s : State) : (tickWait s).nowIn = s.nowIn := rfl
@[simp] theorem tickWait_latencyIn (s : State) : (tickWait s).latencyIn = s.latencyIn := rfl
@[simp] theorem tickWait_draws (s : State) : (tickWait s).draws = s.draws := rfl
@[simp] theorem tickWait_wait (s : State) : (tickWait s).wait = s.wait.map (· - 1) := rfl

/-! ### clearWait -/

@[simp] theorem clearWait_keyCap (s : State) : (clearWait s).keyCap = s.keyCap := rfl
@[simp] theorem clearWait_st (s : State) : (clearWait s).st = s.st := rfl
@[simp] theorem clearWait_program (s : State) : (clearWait s).program = s.program := rfl
@[simp] theorem clearWait_resp (s : State) : (clearWait s).resp = s.resp := rfl
@[simp] theorem clearWait_hostFault (s : State) : (clearWait s).hostFault = s.hostFault := rfl
@[simp] theorem clearWait_resetIn (s : State) : (clearWait s).resetIn = s.resetIn := rfl
@[simp] theorem clearWait_nowIn (s : State) : (clearWait s).nowIn = s.nowIn := rfl
@[simp] theorem clearWait_latencyIn (s : State) : (clearWait s).latencyIn = s.latencyIn := rfl
@[simp] theorem clearWait_draws (s : State) : (clearWait s).draws = s.draws := rfl
@[simp] theorem clearWait_wait (s : State) : (clearWait s).wait = none := rfl

/-! ### noteBusyWrite -/

@[simp] theorem noteBusyWrite_digits (b : Block) : (noteBusyWrite b).digits = b.digits := rfl
@[simp] theorem noteBusyWrite_key (b : Block) : (noteBusyWrite b).key = b.key := rfl
@[simp] theorem noteBusyWrite_keyOvf (b : Block) : (noteBusyWrite b).keyOvf = b.keyOvf := rfl
@[simp] theorem noteBusyWrite_counter (b : Block) : (noteBusyWrite b).counter = b.counter := rfl
@[simp] theorem noteBusyWrite_t0 (b : Block) : (noteBusyWrite b).t0 = b.t0 := rfl
@[simp] theorem noteBusyWrite_step (b : Block) : (noteBusyWrite b).step = b.step := rfl
@[simp] theorem noteBusyWrite_timeSample (b : Block) : (noteBusyWrite b).timeSample = b.timeSample := rfl
@[simp] theorem noteBusyWrite_digestIn (b : Block) : (noteBusyWrite b).digestIn = b.digestIn := rfl
@[simp] theorem noteBusyWrite_code (b : Block) : (noteBusyWrite b).code = b.code := rfl
@[simp] theorem noteBusyWrite_snum (b : Block) : (noteBusyWrite b).snum = b.snum := rfl
@[simp] theorem noteBusyWrite_offset (b : Block) : (noteBusyWrite b).offset = b.offset := rfl
@[simp] theorem noteBusyWrite_done (b : Block) : (noteBusyWrite b).done = b.done := rfl
@[simp] theorem noteBusyWrite_err (b : Block) : (noteBusyWrite b).err = b.err := rfl
@[simp] theorem noteBusyWrite_busyWr (b : Block) : (noteBusyWrite b).busyWr = true := rfl
@[simp] theorem noteBusyWrite_errcode (b : Block) : (noteBusyWrite b).errcode = b.errcode := rfl
@[simp] theorem noteBusyWrite_latch (b : Block) : (noteBusyWrite b).latch = b.latch := rfl

/-! ### clearKey -/

@[simp] theorem clearKey_digits (b : Block) : (clearKey b).digits = b.digits := rfl
@[simp] theorem clearKey_key (b : Block) : (clearKey b).key = [] := rfl
@[simp] theorem clearKey_keyOvf (b : Block) : (clearKey b).keyOvf = false := rfl
@[simp] theorem clearKey_counter (b : Block) : (clearKey b).counter = b.counter := rfl
@[simp] theorem clearKey_t0 (b : Block) : (clearKey b).t0 = b.t0 := rfl
@[simp] theorem clearKey_step (b : Block) : (clearKey b).step = b.step := rfl
@[simp] theorem clearKey_timeSample (b : Block) : (clearKey b).timeSample = b.timeSample := rfl
@[simp] theorem clearKey_digestIn (b : Block) : (clearKey b).digestIn = b.digestIn := rfl
@[simp] theorem clearKey_code (b : Block) : (clearKey b).code = b.code := rfl
@[simp] theorem clearKey_snum (b : Block) : (clearKey b).snum = b.snum := rfl
@[simp] theorem clearKey_offset (b : Block) : (clearKey b).offset = b.offset := rfl
@[simp] theorem clearKey_done (b : Block) : (clearKey b).done = b.done := rfl
@[simp] theorem clearKey_err (b : Block) : (clearKey b).err = b.err := rfl
@[simp] theorem clearKey_busyWr (b : Block) : (clearKey b).busyWr = b.busyWr := rfl
@[simp] theorem clearKey_errcode (b : Block) : (clearKey b).errcode = b.errcode := rfl
@[simp] theorem clearKey_latch (b : Block) : (clearKey b).latch = b.latch := rfl

/-! ### clearForAcceptance -/

@[simp] theorem clearForAcceptance_digits (b : Block) : (clearForAcceptance b).digits = b.digits := rfl
@[simp] theorem clearForAcceptance_key (b : Block) : (clearForAcceptance b).key = b.key := rfl
@[simp] theorem clearForAcceptance_keyOvf (b : Block) : (clearForAcceptance b).keyOvf = b.keyOvf := rfl
@[simp] theorem clearForAcceptance_counter (b : Block) : (clearForAcceptance b).counter = b.counter := rfl
@[simp] theorem clearForAcceptance_t0 (b : Block) : (clearForAcceptance b).t0 = b.t0 := rfl
@[simp] theorem clearForAcceptance_step (b : Block) : (clearForAcceptance b).step = b.step := rfl
@[simp] theorem clearForAcceptance_timeSample (b : Block) : (clearForAcceptance b).timeSample = b.timeSample := rfl
@[simp] theorem clearForAcceptance_digestIn (b : Block) : (clearForAcceptance b).digestIn = b.digestIn := rfl
@[simp] theorem clearForAcceptance_code (b : Block) : (clearForAcceptance b).code = 0 := rfl
@[simp] theorem clearForAcceptance_snum (b : Block) : (clearForAcceptance b).snum = 0 := rfl
@[simp] theorem clearForAcceptance_offset (b : Block) : (clearForAcceptance b).offset = 0 := rfl
@[simp] theorem clearForAcceptance_done (b : Block) : (clearForAcceptance b).done = false := rfl
@[simp] theorem clearForAcceptance_err (b : Block) : (clearForAcceptance b).err = false := rfl
@[simp] theorem clearForAcceptance_busyWr (b : Block) : (clearForAcceptance b).busyWr = false := rfl
@[simp] theorem clearForAcceptance_errcode (b : Block) : (clearForAcceptance b).errcode = .none := rfl
@[simp] theorem clearForAcceptance_latch (b : Block) : (clearForAcceptance b).latch = b.latch := rfl

/-! ### cmdError -/

@[simp] theorem cmdError_digits (e : ErrCode) (b : Block) : (cmdError e b).digits = b.digits := rfl
@[simp] theorem cmdError_key (e : ErrCode) (b : Block) : (cmdError e b).key = b.key := rfl
@[simp] theorem cmdError_keyOvf (e : ErrCode) (b : Block) : (cmdError e b).keyOvf = b.keyOvf := rfl
@[simp] theorem cmdError_counter (e : ErrCode) (b : Block) : (cmdError e b).counter = b.counter := rfl
@[simp] theorem cmdError_t0 (e : ErrCode) (b : Block) : (cmdError e b).t0 = b.t0 := rfl
@[simp] theorem cmdError_step (e : ErrCode) (b : Block) : (cmdError e b).step = b.step := rfl
@[simp] theorem cmdError_timeSample (e : ErrCode) (b : Block) : (cmdError e b).timeSample = b.timeSample := rfl
@[simp] theorem cmdError_digestIn (e : ErrCode) (b : Block) : (cmdError e b).digestIn = b.digestIn := rfl
@[simp] theorem cmdError_code (e : ErrCode) (b : Block) : (cmdError e b).code = b.code := rfl
@[simp] theorem cmdError_snum (e : ErrCode) (b : Block) : (cmdError e b).snum = b.snum := rfl
@[simp] theorem cmdError_offset (e : ErrCode) (b : Block) : (cmdError e b).offset = b.offset := rfl
@[simp] theorem cmdError_done (e : ErrCode) (b : Block) : (cmdError e b).done = true := rfl
@[simp] theorem cmdError_err (e : ErrCode) (b : Block) : (cmdError e b).err = true := rfl
@[simp] theorem cmdError_busyWr (e : ErrCode) (b : Block) : (cmdError e b).busyWr = b.busyWr := rfl
@[simp] theorem cmdError_errcode (e : ErrCode) (b : Block) : (cmdError e b).errcode = e := rfl
@[simp] theorem cmdError_latch (e : ErrCode) (b : Block) : (cmdError e b).latch = none := rfl

/-! ### enterBusy -/

@[simp] theorem enterBusy_digits (l : Latch) (b : Block) : (enterBusy l b).digits = b.digits := rfl
@[simp] theorem enterBusy_key (l : Latch) (b : Block) : (enterBusy l b).key = b.key := rfl
@[simp] theorem enterBusy_keyOvf (l : Latch) (b : Block) : (enterBusy l b).keyOvf = b.keyOvf := rfl
@[simp] theorem enterBusy_counter (l : Latch) (b : Block) : (enterBusy l b).counter = b.counter := rfl
@[simp] theorem enterBusy_t0 (l : Latch) (b : Block) : (enterBusy l b).t0 = b.t0 := rfl
@[simp] theorem enterBusy_step (l : Latch) (b : Block) : (enterBusy l b).step = b.step := rfl
@[simp] theorem enterBusy_timeSample (l : Latch) (b : Block) : (enterBusy l b).timeSample = b.timeSample := rfl
@[simp] theorem enterBusy_digestIn (l : Latch) (b : Block) : (enterBusy l b).digestIn = b.digestIn := rfl
@[simp] theorem enterBusy_code (l : Latch) (b : Block) : (enterBusy l b).code = b.code := rfl
@[simp] theorem enterBusy_snum (l : Latch) (b : Block) : (enterBusy l b).snum = b.snum := rfl
@[simp] theorem enterBusy_offset (l : Latch) (b : Block) : (enterBusy l b).offset = b.offset := rfl
@[simp] theorem enterBusy_done (l : Latch) (b : Block) : (enterBusy l b).done = b.done := rfl
@[simp] theorem enterBusy_err (l : Latch) (b : Block) : (enterBusy l b).err = b.err := rfl
@[simp] theorem enterBusy_busyWr (l : Latch) (b : Block) : (enterBusy l b).busyWr = b.busyWr := rfl
@[simp] theorem enterBusy_errcode (l : Latch) (b : Block) : (enterBusy l b).errcode = b.errcode := rfl
@[simp] theorem enterBusy_latch (l : Latch) (b : Block) : (enterBusy l b).latch = some l := rfl

/-! ### finish -/

@[simp] theorem finish_digits (d : Digits) (hs : Digest) (b : Block) : (finish d hs b).digits = b.digits := rfl
@[simp] theorem finish_key (d : Digits) (hs : Digest) (b : Block) : (finish d hs b).key = b.key := rfl
@[simp] theorem finish_keyOvf (d : Digits) (hs : Digest) (b : Block) : (finish d hs b).keyOvf = b.keyOvf := rfl
@[simp] theorem finish_counter (d : Digits) (hs : Digest) (b : Block) : (finish d hs b).counter = b.counter := rfl
@[simp] theorem finish_t0 (d : Digits) (hs : Digest) (b : Block) : (finish d hs b).t0 = b.t0 := rfl
@[simp] theorem finish_step (d : Digits) (hs : Digest) (b : Block) : (finish d hs b).step = b.step := rfl
@[simp] theorem finish_timeSample (d : Digits) (hs : Digest) (b : Block) : (finish d hs b).timeSample = b.timeSample := rfl
@[simp] theorem finish_digestIn (d : Digits) (hs : Digest) (b : Block) : (finish d hs b).digestIn = b.digestIn := rfl
@[simp] theorem finish_code (d : Digits) (hs : Digest) (b : Block) : (finish d hs b).code = (truncateReduce hs d).code := rfl
@[simp] theorem finish_snum (d : Digits) (hs : Digest) (b : Block) : (finish d hs b).snum = (truncateReduce hs d).snum := rfl
@[simp] theorem finish_offset (d : Digits) (hs : Digest) (b : Block) : (finish d hs b).offset = (truncateReduce hs d).offset := rfl
@[simp] theorem finish_done (d : Digits) (hs : Digest) (b : Block) : (finish d hs b).done = true := rfl
@[simp] theorem finish_err (d : Digits) (hs : Digest) (b : Block) : (finish d hs b).err = false := rfl
@[simp] theorem finish_busyWr (d : Digits) (hs : Digest) (b : Block) : (finish d hs b).busyWr = b.busyWr := rfl
@[simp] theorem finish_errcode (d : Digits) (hs : Digest) (b : Block) : (finish d hs b).errcode = .none := rfl
@[simp] theorem finish_latch (d : Digits) (hs : Digest) (b : Block) : (finish d hs b).latch = none := rfl

/-! ### produceCounter -/

@[simp] theorem produceCounter_digits (b : Block) : (produceCounter b).2.digits = b.digits := rfl
@[simp] theorem produceCounter_key (b : Block) : (produceCounter b).2.key = b.key := rfl
@[simp] theorem produceCounter_keyOvf (b : Block) : (produceCounter b).2.keyOvf = b.keyOvf := rfl
@[simp] theorem produceCounter_counter (b : Block) : (produceCounter b).2.counter = b.counter + 1 := rfl
@[simp] theorem produceCounter_t0 (b : Block) : (produceCounter b).2.t0 = b.t0 := rfl
@[simp] theorem produceCounter_step (b : Block) : (produceCounter b).2.step = b.step := rfl
@[simp] theorem produceCounter_timeSample (b : Block) : (produceCounter b).2.timeSample = b.timeSample := rfl
@[simp] theorem produceCounter_digestIn (b : Block) : (produceCounter b).2.digestIn = b.digestIn := rfl
@[simp] theorem produceCounter_code (b : Block) : (produceCounter b).2.code = b.code := rfl
@[simp] theorem produceCounter_snum (b : Block) : (produceCounter b).2.snum = b.snum := rfl
@[simp] theorem produceCounter_offset (b : Block) : (produceCounter b).2.offset = b.offset := rfl
@[simp] theorem produceCounter_done (b : Block) : (produceCounter b).2.done = b.done := rfl
@[simp] theorem produceCounter_err (b : Block) : (produceCounter b).2.err = b.err := rfl
@[simp] theorem produceCounter_busyWr (b : Block) : (produceCounter b).2.busyWr = b.busyWr := rfl
@[simp] theorem produceCounter_errcode (b : Block) : (produceCounter b).2.errcode = b.errcode := rfl
@[simp] theorem produceCounter_latch (b : Block) : (produceCounter b).2.latch = b.latch := rfl

/-! ### The views -/

@[simp] theorem produceCounter_fst (b : Block) : (produceCounter b).1 = be64 b.counter := rfl
@[simp] theorem noteBusyWrite_busy (b : Block) : (noteBusyWrite b).busy = b.busy := rfl
@[simp] theorem clearKey_busy (b : Block) : (clearKey b).busy = b.busy := rfl
@[simp] theorem clearForAcceptance_busy (b : Block) : (clearForAcceptance b).busy = b.busy := rfl
@[simp] theorem cmdError_busy (e : ErrCode) (b : Block) : (cmdError e b).busy = false := rfl
@[simp] theorem enterBusy_busy (l : Latch) (b : Block) : (enterBusy l b).busy = true := rfl
@[simp] theorem finish_busy (d : Digits) (hs : Digest) (b : Block) : (finish d hs b).busy = false := rfl
@[simp] theorem reset_busy : Block.reset.busy = false := rfl

/-- IDLE exactly when the latch holds no record (10_state.md R45). -/
theorem busy_eq_false_iff (b : Block) : b.busy = false ↔ b.latch = none := by simp [Block.busy]

/-- BUSY exactly when the latch holds a record (10_state.md R45). -/
theorem busy_eq_true_iff (b : Block) : b.busy = true ↔ ∃ l, b.latch = some l := by
  simp [Block.busy, Option.isSome_iff_exists]

/-- The key buffer always has KEY_CAP bytes (10_state.md R39). -/
theorem keyBuf_length {cap : Nat} {b : Block} (h : b.key.length ≤ cap) : (b.keyBuf cap).length = cap := by
  simp [Block.keyBuf]; omega

end Sys2Proof.Machine
end

