-- ==== Sys2Proof/Laws/Ops.lean ====
section
/-! SUPPORT. One spec lemma per shared operation: everything it can do, said once. -/

namespace Sys2Proof.Machine

/-! ### Reads and writes -/

/-- What an admitted write does when IDLE. -/
theorem hostAccess_idle {f : State → State} {s : State} (h : s.st.busy = false) :
    hostAccess f s = .next ((f s).answer .okayWrite) := by simp [hostAccess, h]

/-- What an admitted write does while BUSY. -/
theorem hostAccess_busy {f : State → State} {s : State} (h : s.st.busy = true) :
    hostAccess f s = .next ((s.onSt noteBusyWrite).answer .okayWrite) := by simp [hostAccess, h]

/-- The read of a register is the read function at that register. -/
theorem exec_readInstr (r : Reg) (s : State) :
    exec (readInstr r) s = .next (s.answer (.okayRead (regRead r s.st))) := by cases r <;> rfl

/-- Every instruction is a read of a register or a write with some effect. -/
theorem exec_read_or_access (i : Instr) :
    ((encode i).write = false ∧ ∃ r, i = readInstr r ∧ ∀ s, exec i s = hostRead r s) ∨
      ((encode i).write = true ∧ ∀ s, ∃ f, exec i s = hostAccess f s) := by
  cases i with
  | nop | genCounter | genTime | truncate => exact .inr ⟨rfl, fun _ => ⟨_, rfl⟩⟩
  | rdId => exact .inl ⟨rfl, .id, rfl, fun _ => rfl⟩
  | wrId w => exact .inr ⟨rfl, fun _ => ⟨_, rfl⟩⟩
  | rdConfig => exact .inl ⟨rfl, .config, rfl, fun _ => rfl⟩
  | wrConfig w => exact .inr ⟨rfl, fun _ => ⟨_, rfl⟩⟩
  | rdCmd => exact .inl ⟨rfl, .cmd, rfl, fun _ => rfl⟩
  | wrCmd w => exact .inr ⟨rfl, fun _ => ⟨_, rfl⟩⟩
  | rdStatus => exact .inl ⟨rfl, .status, rfl, fun _ => rfl⟩
  | wrStatus w => exact .inr ⟨rfl, fun _ => ⟨_, rfl⟩⟩
  | rdCode => exact .inl ⟨rfl, .code, rfl, fun _ => rfl⟩
  | wrCode w => exact .inr ⟨rfl, fun _ => ⟨_, rfl⟩⟩
  | rdSnum => exact .inl ⟨rfl, .snum, rfl, fun _ => rfl⟩
  | wrSnum w => exact .inr ⟨rfl, fun _ => ⟨_, rfl⟩⟩
  | rdOffset => exact .inl ⟨rfl, .offset, rfl, fun _ => rfl⟩
  | wrOffset w => exact .inr ⟨rfl, fun _ => ⟨_, rfl⟩⟩
  | rdKeyClr => exact .inl ⟨rfl, .keyClr, rfl, fun _ => rfl⟩
  | wrKeyClr w => exact .inr ⟨rfl, fun _ => ⟨_, rfl⟩⟩
  | rdKeyData => exact .inl ⟨rfl, .keyData, rfl, fun _ => rfl⟩
  | wrKeyData w => exact .inr ⟨rfl, fun _ => ⟨_, rfl⟩⟩
  | rdKeyLen => exact .inl ⟨rfl, .keyLen, rfl, fun _ => rfl⟩
  | wrKeyLen w => exact .inr ⟨rfl, fun _ => ⟨_, rfl⟩⟩
  | rdCounterLo => exact .inl ⟨rfl, .counterLo, rfl, fun _ => rfl⟩
  | wrCounterLo w => exact .inr ⟨rfl, fun _ => ⟨_, rfl⟩⟩
  | rdCounterHi => exact .inl ⟨rfl, .counterHi, rfl, fun _ => rfl⟩
  | wrCounterHi w => exact .inr ⟨rfl, fun _ => ⟨_, rfl⟩⟩
  | rdT0Lo => exact .inl ⟨rfl, .t0Lo, rfl, fun _ => rfl⟩
  | wrT0Lo w => exact .inr ⟨rfl, fun _ => ⟨_, rfl⟩⟩
  | rdT0Hi => exact .inl ⟨rfl, .t0Hi, rfl, fun _ => rfl⟩
  | wrT0Hi w => exact .inr ⟨rfl, fun _ => ⟨_, rfl⟩⟩
  | rdStepLo => exact .inl ⟨rfl, .stepLo, rfl, fun _ => rfl⟩
  | wrStepLo w => exact .inr ⟨rfl, fun _ => ⟨_, rfl⟩⟩
  | rdStepHi => exact .inl ⟨rfl, .stepHi, rfl, fun _ => rfl⟩
  | wrStepHi w => exact .inr ⟨rfl, fun _ => ⟨_, rfl⟩⟩
  | rdTimeSampleLo => exact .inl ⟨rfl, .timeSampleLo, rfl, fun _ => rfl⟩
  | wrTimeSampleLo w => exact .inr ⟨rfl, fun _ => ⟨_, rfl⟩⟩
  | rdTimeSampleHi => exact .inl ⟨rfl, .timeSampleHi, rfl, fun _ => rfl⟩
  | wrTimeSampleHi w => exact .inr ⟨rfl, fun _ => ⟨_, rfl⟩⟩
  | rdDigestIn0 => exact .inl ⟨rfl, .digestIn0, rfl, fun _ => rfl⟩
  | wrDigestIn0 w => exact .inr ⟨rfl, fun _ => ⟨_, rfl⟩⟩
  | rdDigestIn1 => exact .inl ⟨rfl, .digestIn1, rfl, fun _ => rfl⟩
  | wrDigestIn1 w => exact .inr ⟨rfl, fun _ => ⟨_, rfl⟩⟩
  | rdDigestIn2 => exact .inl ⟨rfl, .digestIn2, rfl, fun _ => rfl⟩
  | wrDigestIn2 w => exact .inr ⟨rfl, fun _ => ⟨_, rfl⟩⟩
  | rdDigestIn3 => exact .inl ⟨rfl, .digestIn3, rfl, fun _ => rfl⟩
  | wrDigestIn3 w => exact .inr ⟨rfl, fun _ => ⟨_, rfl⟩⟩
  | rdDigestIn4 => exact .inl ⟨rfl, .digestIn4, rfl, fun _ => rfl⟩
  | wrDigestIn4 w => exact .inr ⟨rfl, fun _ => ⟨_, rfl⟩⟩

/-! ### The digit count and the time sample -/

/-- DIGITS in 0..9 is the digit count it names. -/
theorem digitCount_of_eq {d : BitVec 4} {k : Digits} (h : d.toNat = k.val) : digitCount d = some k := by
  have hk := k.isLt
  have hd : d.toNat < 10 := by omega
  simp only [digitCount, hd, dite_true, Option.some.injEq]
  exact Fin.ext h

/-- DIGITS above 9 is no digit count. -/
theorem digitCount_of_gt {d : BitVec 4} (h : 9 < d.toNat) : digitCount d = none := by
  have hd : ¬d.toNat < 10 := by omega
  simp [digitCount, hd]

/-- A digit count exists exactly for DIGITS in 0..9. -/
theorem digitCount_eq_some_iff {d : BitVec 4} {k : Digits} : digitCount d = some k ↔ d.toNat = k.val := by
  refine ⟨fun h => ?_, digitCount_of_eq⟩
  unfold digitCount at h
  split at h
  · cases h; rfl
  · cases h

/-- `sampled` names the sample taken and the state after it. -/
theorem sampled_iff {s u : State} {n : Dword} : sampled s n u ↔ sampleValue s = n ∧ takeSample s = u := by
  unfold sampled sampleValue takeSample
  cases h : s.nowIn <;> simp [eq_comm]

/-- Taking a sample uses up a scripted one or a draw, and nothing else. -/
theorem takeSample_eq (s : State) :
    takeSample s = { s with nowIn := (takeSample s).nowIn, draws := (takeSample s).draws } := by
  unfold takeSample
  split <;> rfl

@[simp] theorem takeSample_st (s : State) : (takeSample s).st = s.st := by rw [takeSample_eq]
@[simp] theorem takeSample_keyCap (s : State) : (takeSample s).keyCap = s.keyCap := by rw [takeSample_eq]
@[simp] theorem takeSample_program (s : State) : (takeSample s).program = s.program := by rw [takeSample_eq]
@[simp] theorem takeSample_resp (s : State) : (takeSample s).resp = s.resp := by rw [takeSample_eq]
@[simp] theorem takeSample_hostFault (s : State) : (takeSample s).hostFault = s.hostFault := by rw [takeSample_eq]
@[simp] theorem takeSample_resetIn (s : State) : (takeSample s).resetIn = s.resetIn := by rw [takeSample_eq]
@[simp] theorem takeSample_latencyIn (s : State) : (takeSample s).latencyIn = s.latencyIn := by rw [takeSample_eq]
@[simp] theorem takeSample_wait (s : State) : (takeSample s).wait = s.wait := by rw [takeSample_eq]

/-! ### Acceptance -/

/-- Acceptance with DIGITS in 0..9 is the clearing, then the command's own part. -/
theorem acceptChecked_ok {own : Digits → State → State} {s : State} {d : Digits} (h : s.st.digits.toNat = d.val) :
    acceptChecked own s = own d (s.onSt clearForAcceptance) := by
  simp [acceptChecked, digitCount_of_eq h]

/-- Acceptance with DIGITS above 9 is the clearing, then INVALID_DIGITS. -/
theorem acceptChecked_bad {own : Digits → State → State} {s : State} (h : 9 < s.st.digits.toNat) :
    acceptChecked own s = s.onSt fun b => cmdError .invalidDigits (clearForAcceptance b) := by
  simp [acceptChecked, digitCount_of_gt h, State.onSt]

/-- Acceptance passes or fails the digits check. -/
theorem acceptChecked_cases (own : Digits → State → State) (s : State) :
    (∃ d : Digits, s.st.digits.toNat = d.val ∧ acceptChecked own s = own d (s.onSt clearForAcceptance)) ∨
      (9 < s.st.digits.toNat ∧
        acceptChecked own s = s.onSt fun b => cmdError .invalidDigits (clearForAcceptance b)) := by
  rcases Nat.lt_or_ge 9 s.st.digits.toNat with h | h
  · exact .inr ⟨h, acceptChecked_bad h⟩
  · exact .inl ⟨⟨s.st.digits.toNat, by omega⟩, rfl, acceptChecked_ok rfl⟩

/-- The acceptance of a word is that of one of the five commands. -/
theorem acceptWord_cases (w : Word) (s : State) :
    (decodeCmd w = .nop ∧ acceptWord w s = s) ∨ (decodeCmd w = .illegal ∧ acceptWord w s = acceptIllegal s) ∨
      (decodeCmd w = .genCounter ∧ acceptWord w s = acceptChecked acceptCounter s) ∨
      (decodeCmd w = .genTime ∧ acceptWord w s = acceptChecked acceptTime s) ∨
      (decodeCmd w = .truncate ∧ acceptWord w s = acceptChecked acceptTruncate s) := by
  unfold acceptWord
  cases decodeCmd w <;> simp

/-- GEN_TIME's own part: STEP_ZERO without a sample, or the sample, then the epoch check. -/
theorem acceptTime_cases (d : Digits) (s : State) :
    (s.st.step = 0 ∧ acceptTime d s = s.onSt (cmdError .stepZero)) ∨
      (s.st.step ≠ 0 ∧ acceptTime d s = (takeSample s).onSt (acceptTimeAt (sampleValue s) d)) := by
  unfold acceptTime
  split
  · exact .inl ⟨‹_›, rfl⟩
  · exact .inr ⟨‹_›, rfl⟩

/-- After the sample: TIME_BEFORE_EPOCH, or the latch. -/
theorem acceptTimeAt_cases (n : Dword) (d : Digits) (b : Block) :
    (n.toNat < b.t0.toNat ∧ acceptTimeAt n d b = cmdError .timeBeforeEpoch { b with timeSample := n }) ∨
      (b.t0.toNat ≤ n.toNat ∧ acceptTimeAt n d b =
        enterBusy (.genTime (hmacJob d (timeFactor n b.t0 b.step) b)) { b with timeSample := n }) := by
  unfold acceptTimeAt
  simp only [BitVec.lt_def]
  split
  · exact .inl ⟨‹_›, rfl⟩
  · exact .inr ⟨by omega, rfl⟩

/-- The quotient of PRODUCE_TIME is that of natural numbers (40_byte_source.md R118). -/
theorem timeFactor_eq {n t0 step : Dword} (h : t0.toNat ≤ n.toNat) :
    timeFactor n t0 step = be64 (BitVec.ofNat 64 ((n.toNat - t0.toNat) / step.toNat)) := by
  unfold timeFactor
  congr 1
  apply BitVec.eq_of_toNat_eq
  have hn := n.isLt
  rw [BitVec.toNat_udiv, BitVec.toNat_sub_of_le (by simpa [BitVec.le_def] using h), BitVec.toNat_ofNat,
    Nat.mod_eq_of_lt]
  exact lt_of_le_of_lt (Nat.div_le_self _ _) (by omega)

/-! ### Completion -/

@[simp] theorem complete_program (s : State) : (complete s).program = s.program := by
  unfold complete; split <;> rfl
@[simp] theorem complete_keyCap (s : State) : (complete s).keyCap = s.keyCap := by unfold complete; split <;> rfl
@[simp] theorem complete_hostFault (s : State) : (complete s).hostFault = s.hostFault := by
  unfold complete; split <;> rfl
@[simp] theorem complete_resetIn (s : State) : (complete s).resetIn = s.resetIn := by unfold complete; split <;> rfl

/-- A completion leaves the block IDLE. -/
@[simp] theorem completeLatch_busy (l : Latch) (b : Block) : (completeLatch l b).busy = false := by
  cases l <;> simp [completeLatch, completeJob] <;> split <;> rfl

/-- The completion of a state with a latch record. -/
theorem complete_of_latch {s : State} {l : Latch} (h : s.st.latch = some l) :
    complete s = { s with st := completeLatch l s.st, wait := none } := by
  simp [complete, h, State.onSt]

/-- A completion always leaves the block IDLE. -/
@[simp] theorem complete_busy (s : State) : (complete s).st.busy = false := by
  cases h : s.st.latch with
  | none => simp [complete, h, Block.busy]
  | some l => simp [complete_of_latch h]

/-- The completed block is a function of the block. -/
theorem complete_st_congr {s u : State} (h : u.st = s.st) : (complete u).st = (complete s).st := by
  unfold complete
  rw [h]
  split <;> simp [State.onSt, h]

end Sys2Proof.Machine
end

