-- ==== Sys2Proof/Laws/PerInstr.lean ====
section
/-! SUPPORT. Per-instruction laws.  Family Admitted: the encoding of every instruction is an admitted transaction, an
aligned 4-byte access at a mapped offset (20_memory.md R63, R64). -/

namespace Sys2Proof.Laws.Admitted

/-- The transaction an instruction encodes to passes the address check, at a mapped offset. -/
def Statement (i : Instr) : Prop :=
  ∃ r, checkAddress (encode i).off (encode i).size = .ok r ∧ (encode i).off = r.off

theorem nop : Statement .nop := ⟨.cmd, checkAddress_off .cmd, rfl⟩
theorem genCounter : Statement .genCounter := ⟨.cmd, checkAddress_off .cmd, rfl⟩
theorem genTime : Statement .genTime := ⟨.cmd, checkAddress_off .cmd, rfl⟩
theorem truncate : Statement .truncate := ⟨.cmd, checkAddress_off .cmd, rfl⟩
theorem rdId : Statement .rdId := ⟨.id, checkAddress_off .id, rfl⟩
theorem wrId (w : Word) : Statement (.wrId w) := ⟨.id, checkAddress_off .id, rfl⟩
theorem rdConfig : Statement .rdConfig := ⟨.config, checkAddress_off .config, rfl⟩
theorem wrConfig (w : Word) : Statement (.wrConfig w) := ⟨.config, checkAddress_off .config, rfl⟩
theorem rdCmd : Statement .rdCmd := ⟨.cmd, checkAddress_off .cmd, rfl⟩
theorem wrCmd (w : Word) : Statement (.wrCmd w) := ⟨.cmd, checkAddress_off .cmd, rfl⟩
theorem rdStatus : Statement .rdStatus := ⟨.status, checkAddress_off .status, rfl⟩
theorem wrStatus (w : Word) : Statement (.wrStatus w) := ⟨.status, checkAddress_off .status, rfl⟩
theorem rdCode : Statement .rdCode := ⟨.code, checkAddress_off .code, rfl⟩
theorem wrCode (w : Word) : Statement (.wrCode w) := ⟨.code, checkAddress_off .code, rfl⟩
theorem rdSnum : Statement .rdSnum := ⟨.snum, checkAddress_off .snum, rfl⟩
theorem wrSnum (w : Word) : Statement (.wrSnum w) := ⟨.snum, checkAddress_off .snum, rfl⟩
theorem rdOffset : Statement .rdOffset := ⟨.offset, checkAddress_off .offset, rfl⟩
theorem wrOffset (w : Word) : Statement (.wrOffset w) := ⟨.offset, checkAddress_off .offset, rfl⟩
theorem rdKeyClr : Statement .rdKeyClr := ⟨.keyClr, checkAddress_off .keyClr, rfl⟩
theorem wrKeyClr (w : Word) : Statement (.wrKeyClr w) := ⟨.keyClr, checkAddress_off .keyClr, rfl⟩
theorem rdKeyData : Statement .rdKeyData := ⟨.keyData, checkAddress_off .keyData, rfl⟩
theorem wrKeyData (w : Word) : Statement (.wrKeyData w) := ⟨.keyData, checkAddress_off .keyData, rfl⟩
theorem rdKeyLen : Statement .rdKeyLen := ⟨.keyLen, checkAddress_off .keyLen, rfl⟩
theorem wrKeyLen (w : Word) : Statement (.wrKeyLen w) := ⟨.keyLen, checkAddress_off .keyLen, rfl⟩
theorem rdCounterLo : Statement .rdCounterLo := ⟨.counterLo, checkAddress_off .counterLo, rfl⟩
theorem wrCounterLo (w : Word) : Statement (.wrCounterLo w) := ⟨.counterLo, checkAddress_off .counterLo, rfl⟩
theorem rdCounterHi : Statement .rdCounterHi := ⟨.counterHi, checkAddress_off .counterHi, rfl⟩
theorem wrCounterHi (w : Word) : Statement (.wrCounterHi w) := ⟨.counterHi, checkAddress_off .counterHi, rfl⟩
theorem rdT0Lo : Statement .rdT0Lo := ⟨.t0Lo, checkAddress_off .t0Lo, rfl⟩
theorem wrT0Lo (w : Word) : Statement (.wrT0Lo w) := ⟨.t0Lo, checkAddress_off .t0Lo, rfl⟩
theorem rdT0Hi : Statement .rdT0Hi := ⟨.t0Hi, checkAddress_off .t0Hi, rfl⟩
theorem wrT0Hi (w : Word) : Statement (.wrT0Hi w) := ⟨.t0Hi, checkAddress_off .t0Hi, rfl⟩
theorem rdStepLo : Statement .rdStepLo := ⟨.stepLo, checkAddress_off .stepLo, rfl⟩
theorem wrStepLo (w : Word) : Statement (.wrStepLo w) := ⟨.stepLo, checkAddress_off .stepLo, rfl⟩
theorem rdStepHi : Statement .rdStepHi := ⟨.stepHi, checkAddress_off .stepHi, rfl⟩
theorem wrStepHi (w : Word) : Statement (.wrStepHi w) := ⟨.stepHi, checkAddress_off .stepHi, rfl⟩
theorem rdTimeSampleLo : Statement .rdTimeSampleLo := ⟨.timeSampleLo, checkAddress_off .timeSampleLo, rfl⟩
theorem wrTimeSampleLo (w : Word) : Statement (.wrTimeSampleLo w) := ⟨.timeSampleLo, checkAddress_off .timeSampleLo, rfl⟩
theorem rdTimeSampleHi : Statement .rdTimeSampleHi := ⟨.timeSampleHi, checkAddress_off .timeSampleHi, rfl⟩
theorem wrTimeSampleHi (w : Word) : Statement (.wrTimeSampleHi w) := ⟨.timeSampleHi, checkAddress_off .timeSampleHi, rfl⟩
theorem rdDigestIn0 : Statement .rdDigestIn0 := ⟨.digestIn0, checkAddress_off .digestIn0, rfl⟩
theorem wrDigestIn0 (w : Word) : Statement (.wrDigestIn0 w) := ⟨.digestIn0, checkAddress_off .digestIn0, rfl⟩
theorem rdDigestIn1 : Statement .rdDigestIn1 := ⟨.digestIn1, checkAddress_off .digestIn1, rfl⟩
theorem wrDigestIn1 (w : Word) : Statement (.wrDigestIn1 w) := ⟨.digestIn1, checkAddress_off .digestIn1, rfl⟩
theorem rdDigestIn2 : Statement .rdDigestIn2 := ⟨.digestIn2, checkAddress_off .digestIn2, rfl⟩
theorem wrDigestIn2 (w : Word) : Statement (.wrDigestIn2 w) := ⟨.digestIn2, checkAddress_off .digestIn2, rfl⟩
theorem rdDigestIn3 : Statement .rdDigestIn3 := ⟨.digestIn3, checkAddress_off .digestIn3, rfl⟩
theorem wrDigestIn3 (w : Word) : Statement (.wrDigestIn3 w) := ⟨.digestIn3, checkAddress_off .digestIn3, rfl⟩
theorem rdDigestIn4 : Statement .rdDigestIn4 := ⟨.digestIn4, checkAddress_off .digestIn4, rfl⟩
theorem wrDigestIn4 (w : Word) : Statement (.wrDigestIn4 w) := ⟨.digestIn4, checkAddress_off .digestIn4, rfl⟩

end Sys2Proof.Laws.Admitted
end

