-- ==== Sys2Proof/Laws/Sequencer.lean ====
section
/-! SUPPORT. Everything a step can do, said once. -/

namespace Sys2Proof.Machine

/-- `u` is `s` but for what the step's own bookkeeping changes before an agent acts. -/
def Bookkept (s u : State) : Prop :=
  ∃ p levels ls k w, u = { s with program := p, resetIn := levels, latencyIn := ls, draws := k, wait := w }

theorem Bookkept.refl (s : State) : Bookkept s s := ⟨_, _, _, _, _, rfl⟩

theorem Bookkept.trans {s u v : State} : Bookkept s u → Bookkept u v → Bookkept s v := by
  rintro ⟨p, l, ls, k, w, rfl⟩ ⟨p', l', ls', k', w', rfl⟩
  exact ⟨p', l', ls', k', w', rfl⟩

theorem Bookkept.st {s u : State} : Bookkept s u → u.st = s.st := by rintro ⟨_, _, _, _, _, rfl⟩; rfl
theorem Bookkept.keyCap {s u : State} : Bookkept s u → u.keyCap = s.keyCap := by rintro ⟨_, _, _, _, _, rfl⟩; rfl
theorem Bookkept.resp {s u : State} : Bookkept s u → u.resp = s.resp := by rintro ⟨_, _, _, _, _, rfl⟩; rfl
theorem Bookkept.hostFault {s u : State} : Bookkept s u → u.hostFault = s.hostFault := by
  rintro ⟨_, _, _, _, _, rfl⟩; rfl

theorem bookkept_drawLatency (s : State) : Bookkept s (drawLatency s) := by
  unfold drawLatency
  split
  · exact .refl s
  · exact ⟨_, _, _, _, _, rfl⟩
  · exact ⟨_, _, _, _, _, rfl⟩

@[simp] theorem drawLatency_program (s : State) : (drawLatency s).program = s.program := by
  unfold drawLatency; split <;> rfl

@[simp] theorem drawLatency_st (s : State) : (drawLatency s).st = s.st := (bookkept_drawLatency s).st

theorem bookkept_tickWait (s : State) : Bookkept s (tickWait s) := ⟨_, _, _, _, _, rfl⟩
theorem bookkept_clearWait (s : State) : Bookkept s (clearWait s) := ⟨_, _, _, _, _, rfl⟩

/-- Fetching answers the transaction of the program's first statement and bookkeeping alone. -/
theorem fetch_some {s u : State} {t : Transaction} (h : fetch s = some (t, u)) :
    Bookkept s u ∧ ((∃ rest, s.program = .bus t :: rest ∧ u = { s with program := rest }) ∨
      ∃ off mask val rest, s.program = .poll off mask val :: rest ∧ t = readAt off ∧
        u = if readValue off s.st &&& mask = val then { s with program := rest } else s) := by
  unfold fetch at h
  split at h
  · cases h
  · cases h
    exact ⟨⟨_, _, _, _, _, rfl⟩, .inl ⟨_, ‹_›, rfl⟩⟩
  · cases h
    refine ⟨?_, .inr ⟨_, _, _, _, ‹_›, rfl, rfl⟩⟩
    split
    · exact ⟨_, _, _, _, _, rfl⟩
    · exact .refl s

/-- Fetching answers nothing only with an empty program. -/
theorem fetch_none {s : State} (h : fetch s = none) : s.program = [] := by
  unfold fetch at h
  split at h <;> first | assumption | cases h

/-- A host step waits, or runs one transaction from bookkeeping alone. -/
theorem hostStep_cases (s : State) :
    (s.program = [] ∧ hostStep s = .next s) ∨
      ∃ t u, fetch s = some (t, u) ∧ Bookkept s u ∧ hostStep s = runTransaction t u := by
  unfold hostStep
  cases h : fetch s with
  | none => exact .inl ⟨fetch_none h, rfl⟩
  | some p => exact .inr ⟨p.1, p.2, rfl, (fetch_some h).1, rfl⟩

/-- A host step on a `wr` or `rd` runs that transaction and takes it from the program. -/
theorem hostStep_bus {s : State} {t : Transaction} {rest : List HostStmt} (h : s.program = .bus t :: rest) :
    hostStep s = runTransaction t { s with program := rest } := by simp [hostStep, fetch, h]

/-- A host step on a poll runs its read, and takes the poll from the program where the data matches. -/
theorem hostStep_poll {s : State} {off : BitVec 8} {mask val : Word} {rest : List HostStmt}
    (h : s.program = .poll off mask val :: rest) : hostStep s = runTransaction (readAt off)
      (if readValue off s.st &&& mask = val then { s with program := rest } else s) := by simp [hostStep, fetch, h]

/-- A transaction that decodes runs the instruction. -/
theorem runTransaction_ok {t : Transaction} {i : Instr} (h : decode t = .ok i) (s : State) :
    runTransaction t s = exec i s := by simp [runTransaction, h]

/-- A refused transaction gets SLVERR. -/
theorem runTransaction_error {t : Transaction} {e : BusError} (h : decode t = .error e) (s : State) :
    runTransaction t s = .next (busError e s) := by simp [runTransaction, h]

/-- One agent's step: the completion, waiting, or one transaction. -/
theorem agentStep_cases (s : State) :
    (s.st.busy = true ∧ ∃ u, Bookkept s u ∧ agentStep s = .next (complete u)) ∨
      (s.st.busy = false ∧ s.program = [] ∧ agentStep s = .next (clearWait s)) ∨
      ∃ u t v, Bookkept s u ∧ u.program = s.program ∧ fetch u = some (t, v) ∧ Bookkept u v ∧
        agentStep s = runTransaction t v := by
  unfold agentStep
  have hp := drawLatency_program s
  split
  · rename_i hb
    dsimp only
    split
    · exact .inl ⟨hb, _, bookkept_drawLatency s, rfl⟩
    · rename_i he
      rcases hostStep_cases (tickWait (drawLatency s)) with ⟨h, -⟩ | ⟨t, v, h1, h2, h3⟩
      · have hs : s.program = [] := hp ▸ h
        simp [engineMoves, hs] at he
      · exact .inr (.inr ⟨_, t, v, (bookkept_drawLatency s).trans (bookkept_tickWait _), hp, h1, h2, h3⟩)
  · rename_i hb
    rcases hostStep_cases (clearWait s) with ⟨h1, h2⟩ | ⟨t, v, h1, h2, h3⟩
    · exact .inr (.inl ⟨by simpa using hb, h1, h2⟩)
    · exact .inr (.inr ⟨_, t, v, bookkept_clearWait s, rfl, h1, h2, h3⟩)

/-- With the reset input not asserted, a step is an agent's. -/
theorem step_of_noReset {s : State} {levels : List Bool} (h : noReset s levels) :
    step s = agentStep { s with resetIn := levels } := by
  cases s
  rcases h with h | ⟨h, rfl⟩ <;> cases h <;> rfl

/-- With the reset input asserted, a step is the reset. -/
theorem step_of_reset {s : State} {levels : List Bool} (h : s.resetIn = true :: levels) :
    step s = .next (resetBlock { s with resetIn := levels }) := by
  cases s
  cases h
  rfl

/-- An IDLE agent step is the host's. -/
theorem agentStep_idle {s : State} (h : s.st.busy = false) : agentStep s = hostStep (clearWait s) := by
  simp [agentStep, h]

/-- While BUSY with the latency drawn as `n + 1`, an agent step is the host's where it has a statement to issue. -/
theorem agentStep_busy_wait {s : State} {n : Nat} (h : s.st.busy = true) (hw : s.wait = some (n + 1))
    (hp : s.program ≠ []) : agentStep s = hostStep { s with wait := some n } := by
  have hd : drawLatency s = s := by simp [drawLatency, hw]
  simp [agentStep, h, hd, engineMoves, hw, hp, tickWait]

/-- While BUSY with the latency passed or nothing to issue, an agent step is the completion. -/
theorem agentStep_busy_complete {s : State} (h : s.st.busy = true)
    (hm : (drawLatency s).wait = some 0 ∨ s.program = []) : agentStep s = .next (complete (drawLatency s)) := by
  have he : engineMoves (drawLatency s) = true := by
    rcases hm with hm | hm <;> simp [engineMoves, hm]
  simp [agentStep, h, he]

/-- A step is the reset, the completion while BUSY, waiting when IDLE, or one host transaction: an instruction's meaning,
or SLVERR, run from bookkeeping alone. -/
theorem step_cases {s t : State} (h : step s = .next t) :
    (∃ levels, s.resetIn = true :: levels ∧ t = resetBlock { s with resetIn := levels }) ∨
      (s.st.busy = true ∧ ∃ u, Bookkept s u ∧ t = complete u) ∨
      (s.st.busy = false ∧ s.program = [] ∧ Bookkept s t) ∨
      (∃ u v tr i, Bookkept s v ∧ u.program = s.program ∧ u.st = s.st ∧ fetch u = some (tr, v) ∧
        decode tr = .ok i ∧ exec i v = .next t) ∨
      ∃ v tr e, Bookkept s v ∧ decode tr = .error e ∧ t = busError e v := by
  have key : ∀ s' : State, Bookkept s s' → s'.program = s.program → agentStep s' = .next t →
      (s.st.busy = true ∧ ∃ u, Bookkept s u ∧ t = complete u) ∨
      (s.st.busy = false ∧ s.program = [] ∧ Bookkept s t) ∨
      (∃ u v tr i, Bookkept s v ∧ u.program = s.program ∧ u.st = s.st ∧ fetch u = some (tr, v) ∧
        decode tr = .ok i ∧ exec i v = .next t) ∨
      ∃ v tr e, Bookkept s v ∧ decode tr = .error e ∧ t = busError e v := by
    intro s' hs hp ha
    rcases agentStep_cases s' with ⟨hb, u, hu, h1⟩ | ⟨hb, hpr, h1⟩ | ⟨u, tr, v, hu, hup, hf, hv, h1⟩
    · rw [h1] at ha; cases ha
      exact .inl ⟨hs.st ▸ hb, u, hs.trans hu, rfl⟩
    · rw [h1] at ha; cases ha
      exact .inr (.inl ⟨hs.st ▸ hb, hp ▸ hpr, hs.trans (bookkept_clearWait _)⟩)
    · rw [h1] at ha
      unfold runTransaction at ha
      cases hd : decode tr with
      | ok i =>
        rw [hd] at ha
        exact .inr (.inr (.inl ⟨u, v, tr, i, hs.trans (hu.trans hv), hup.trans hp, (hs.trans hu).st, hf, hd, ha⟩))
      | error e =>
        rw [hd] at ha; cases ha
        exact .inr (.inr (.inr ⟨v, tr, e, hs.trans (hu.trans hv), hd, rfl⟩))
  unfold step machineStep at h
  split at h
  · cases h
    exact .inl ⟨_, ‹_›, rfl⟩
  · rename_i levels _
    exact .inr (key { s with resetIn := levels } ⟨_, levels, _, _, _, rfl⟩ rfl h)
  · exact .inr (key _ (.refl s) rfl h)

/-- A run of `k + 1` steps is the first step, then a run of `k`. -/
theorem run_of_step {s u : State} {k : Nat} (h : step s = .next u) :
    Host.Core.run Sys2Proof.core (k + 1) s = Host.Core.run Sys2Proof.core k u := by
  refine (Host.Core.run.eq_2 Sys2Proof.core s k).trans ?_
  rw [show Sys2Proof.core.step s = .next u from h]

/-- A latency is always drawn. -/
theorem drawLatency_wait (s : State) : ∃ n, (drawLatency s).wait = some n := by
  unfold drawLatency
  split
  · exact ⟨_, ‹_›⟩
  · exact ⟨_, rfl⟩
  · exact ⟨_, rfl⟩

/-- What an instruction does while BUSY: at most BUSY_WR changes in the block, and only the answer outside it. -/
theorem exec_busy {i : Instr} {s t : State} (hb : s.st.busy = true) (h : exec i s = .next t) :
    ∃ r, t = { s with resp := some r } ∨ t = { s with st := { s.st with busyWr := true }, resp := some r } := by
  rcases exec_read_or_access i with ⟨-, r, -, h'⟩ | ⟨-, h'⟩
  · rw [h'] at h
    cases h
    exact ⟨_, .inl rfl⟩
  · obtain ⟨f, hf⟩ := h' s
    rw [hf, hostAccess_busy hb] at h
    cases h
    exact ⟨_, .inr rfl⟩

/-- Every instruction answers a next state. -/
theorem exec_next (i : Instr) (s : State) : ∃ t, exec i s = .next t := by
  rcases exec_read_or_access i with ⟨-, r, -, h⟩ | ⟨-, h⟩
  · exact ⟨_, h s⟩
  · obtain ⟨f, hf⟩ := h s
    exact ⟨_, hf⟩

end Sys2Proof.Machine
end

