-- ==== Sys2Proof/Tests/Slice0.lean ====
section
/-! SUPPORT. The model's own tests: the well-formedness smoke test, decoding of written-out words, one-step tests whose
expected values are those of 95_test_vectors.md, and a witness for the hypotheses of every obligation that has any. -/

namespace Sys2Proof.Tests

open Sys2Proof Sys2Proof.Machine

/-! ### Helpers -/

/-- The next state of an outcome, none for a fault or a refusal. -/
def nextOf : Host.Outcome State Fault Refusal → Option State
  | .next t => some t
  | .fault _ => none
  | .refused _ => none

/-- One step on a state, then a look at the state after it. -/
def look {α : Type} (f : State → α) (o : Host.Outcome State Fault Refusal) : Option α := (nextOf o).map f

/-- KRFC of 95_test_vectors.md: the bytes 31..39 30, twice. -/
def krfc : List Byte :=
  [0x31, 0x32, 0x33, 0x34, 0x35, 0x36, 0x37, 0x38, 0x39, 0x30, 0x31, 0x32, 0x33, 0x34, 0x35, 0x36, 0x37, 0x38, 0x39, 0x30]

/-- The reset state with DIGITS and the counter set. -/
def idle (d : BitVec 4) (c : Dword) : State :=
  { State.reset with st := { Block.reset with digits := d, counter := c } }

/-- The reset state with DIGITS 6, T0, STEP and one scripted time sample. -/
def timed (t0 step n : Dword) : State :=
  { State.reset with st := { Block.reset with digits := 6, t0 := t0, step := step }, nowIn := [n] }

/-- A state with the given latch, BUSY. -/
def busyWith (l : Latch) : State := { State.reset with st := { Block.reset with digits := 6, latch := some l } }

/-- A busy state: TRUNCATE of the digest of ff bytes with 6 digits. -/
def busy : State := busyWith (.truncate 6 (Vector.replicate 20 0xFF))

/-- The state with the program, the latency and the reset levels given. -/
def running (s : State) (p : List HostStmt) (w : Option Nat) (levels : List Bool) : State :=
  { s with program := p, wait := w, resetIn := levels }

/-- The digest of a 40-digit hexadecimal number. -/
def hex20 (v : BitVec 160) : Digest := Vector.ofFn fun i : Fin 20 => v.extractLsb' (8 * (19 - i.val)) 8

/-- A reset state with KEY_CAP 20 and KRFC loaded, OVF as given. -/
def full (ovf : Bool) : State :=
  { State.reset with keyCap := 20, st := { Block.reset with digits := 6, key := krfc, keyOvf := ovf } }

/-! ### Well-formedness -/

/-- The check of WellFormed.lean: the four legal command words under the name WR.CMD are refused. -/
theorem test_wf_refuses_legal_words :
    [Instr.wrCmd 0, .wrCmd 1, .wrCmd 2, .wrCmd 3].map Instr.wf = [false, false, false, false] := by decide

/-- Illegal words, and the canonical names, are accepted (30_encoding.md R92). -/
theorem test_wf_accepts : [Instr.wrCmd 4, .wrCmd 0x11, .wrCmd 0xFFFFFFFF, .nop, .genCounter, .genTime, .truncate, .rdId,
    .wrKeyData 0x141].all Instr.wf = true := by decide

/-! ### Decoding -/

/-- The command words of 30_encoding.md R93, bit by bit, as table words and as writes to CMD. -/
theorem test_decode_commands :
    List.map (decodeTableWord 32) [0b00000000000000000000000000000000, 0b00000000000000000000000000000001,
      0b00000000000000000000000000000010, 0b00000000000000000000000000000011, 0b00000000000000000000000000000100] =
      [some .nop, some .genCounter, some .genTime, some .truncate, some (.wrCmd 4)] ∧
    List.map decode [⟨0b00001000, .four, true, 0⟩, ⟨0b00001000, .four, true, 1⟩, ⟨0b00001000, .four, true, 2⟩,
      ⟨0b00001000, .four, true, 3⟩] = [.ok .nop, .ok .genCounter, .ok .genTime, .ok .truncate] := by decide

/-- The reads at slots 0 to 11, off[7:2] and off[1:0] written out (30_encoding.md R91; 10_state.md section 3). -/
theorem test_decode_reads_low : List.map decode [
      ⟨0b00000000, .four, false, 0⟩,
      ⟨0b00000100, .four, false, 0⟩,
      ⟨0b00001000, .four, false, 0⟩,
      ⟨0b00001100, .four, false, 0⟩,
      ⟨0b00010000, .four, false, 0⟩,
      ⟨0b00010100, .four, false, 0⟩,
      ⟨0b00011000, .four, false, 0⟩,
      ⟨0b00011100, .four, false, 0⟩,
      ⟨0b00100000, .four, false, 0⟩,
      ⟨0b00100100, .four, false, 0⟩,
      ⟨0b00101000, .four, false, 0⟩,
      ⟨0b00101100, .four, false, 0⟩] =
    [.ok .rdId, .ok .rdConfig, .ok .rdCmd, .ok .rdStatus, .ok .rdCode, .ok .rdSnum, .ok .rdOffset,
      .ok .rdKeyClr, .ok .rdKeyData, .ok .rdKeyLen, .ok .rdCounterLo, .ok .rdCounterHi] := by decide

/-- The reads at slots 12 to 22. -/
theorem test_decode_reads_high : List.map decode [
      ⟨0b00110000, .four, false, 0⟩,
      ⟨0b00110100, .four, false, 0⟩,
      ⟨0b00111000, .four, false, 0⟩,
      ⟨0b00111100, .four, false, 0⟩,
      ⟨0b01000000, .four, false, 0⟩,
      ⟨0b01000100, .four, false, 0⟩,
      ⟨0b01001000, .four, false, 0⟩,
      ⟨0b01001100, .four, false, 0⟩,
      ⟨0b01010000, .four, false, 0⟩,
      ⟨0b01010100, .four, false, 0⟩,
      ⟨0b01011000, .four, false, 0⟩] =
    [.ok .rdT0Lo, .ok .rdT0Hi, .ok .rdStepLo, .ok .rdStepHi, .ok .rdTimeSampleLo, .ok .rdTimeSampleHi,
      .ok .rdDigestIn0, .ok .rdDigestIn1, .ok .rdDigestIn2, .ok .rdDigestIn3, .ok .rdDigestIn4] := by decide

/-- The writes at slots 0 to 11, with a word that is no command word. -/
theorem test_decode_writes_low : List.map decode [
      ⟨0b00000000, .four, true, 0xA1B2C3D4⟩,
      ⟨0b00000100, .four, true, 0xA1B2C3D4⟩,
      ⟨0b00001000, .four, true, 0xA1B2C3D4⟩,
      ⟨0b00001100, .four, true, 0xA1B2C3D4⟩,
      ⟨0b00010000, .four, true, 0xA1B2C3D4⟩,
      ⟨0b00010100, .four, true, 0xA1B2C3D4⟩,
      ⟨0b00011000, .four, true, 0xA1B2C3D4⟩,
      ⟨0b00011100, .four, true, 0xA1B2C3D4⟩,
      ⟨0b00100000, .four, true, 0xA1B2C3D4⟩,
      ⟨0b00100100, .four, true, 0xA1B2C3D4⟩,
      ⟨0b00101000, .four, true, 0xA1B2C3D4⟩,
      ⟨0b00101100, .four, true, 0xA1B2C3D4⟩] =
    [.ok (.wrId 0xA1B2C3D4), .ok (.wrConfig 0xA1B2C3D4), .ok (.wrCmd 0xA1B2C3D4),
      .ok (.wrStatus 0xA1B2C3D4), .ok (.wrCode 0xA1B2C3D4), .ok (.wrSnum 0xA1B2C3D4),
      .ok (.wrOffset 0xA1B2C3D4), .ok (.wrKeyClr 0xA1B2C3D4), .ok (.wrKeyData 0xA1B2C3D4),
      .ok (.wrKeyLen 0xA1B2C3D4), .ok (.wrCounterLo 0xA1B2C3D4), .ok (.wrCounterHi 0xA1B2C3D4)] := by decide

/-- The writes at slots 12 to 22. -/
theorem test_decode_writes_high : List.map decode [
      ⟨0b00110000, .four, true, 0xA1B2C3D4⟩,
      ⟨0b00110100, .four, true, 0xA1B2C3D4⟩,
      ⟨0b00111000, .four, true, 0xA1B2C3D4⟩,
      ⟨0b00111100, .four, true, 0xA1B2C3D4⟩,
      ⟨0b01000000, .four, true, 0xA1B2C3D4⟩,
      ⟨0b01000100, .four, true, 0xA1B2C3D4⟩,
      ⟨0b01001000, .four, true, 0xA1B2C3D4⟩,
      ⟨0b01001100, .four, true, 0xA1B2C3D4⟩,
      ⟨0b01010000, .four, true, 0xA1B2C3D4⟩,
      ⟨0b01010100, .four, true, 0xA1B2C3D4⟩,
      ⟨0b01011000, .four, true, 0xA1B2C3D4⟩] =
    [.ok (.wrT0Lo 0xA1B2C3D4), .ok (.wrT0Hi 0xA1B2C3D4), .ok (.wrStepLo 0xA1B2C3D4),
      .ok (.wrStepHi 0xA1B2C3D4), .ok (.wrTimeSampleLo 0xA1B2C3D4), .ok (.wrTimeSampleHi 0xA1B2C3D4),
      .ok (.wrDigestIn0 0xA1B2C3D4), .ok (.wrDigestIn1 0xA1B2C3D4), .ok (.wrDigestIn2 0xA1B2C3D4),
      .ok (.wrDigestIn3 0xA1B2C3D4), .ok (.wrDigestIn4 0xA1B2C3D4)] := by decide

/-- The bus decode table of 95_test_vectors.md 2.6, and the order of the checks (60_exceptions.md R215 (a)). -/
theorem test_decode_refusals :
    List.map decode [⟨0x5C, .four, false, 0⟩, ⟨0xFC, .four, false, 0⟩, ⟨0x01, .four, false, 0⟩, ⟨0x04, .one, false, 0⟩,
      ⟨0x04, .two, false, 0⟩, ⟨0x5D, .four, true, 0⟩, ⟨0x5D, .two, true, 0⟩] =
      [.error .unmapped, .error .unmapped, .error .misaligned, .error .narrow, .error .narrow, .error .misaligned,
       .error .narrow] := by decide

/-- A table row of eight bits is the read of its register; the model's numbering of a whole write (log entry 5). -/
theorem test_decode_table_words :
    decodeTableWord 8 0x0C = some .rdStatus ∧ decodeTableWord 8 0x58 = some .rdDigestIn4 ∧ decodeTableWord 8 0x5C = none ∧
    decodeTableWord 48 (0x06 * 2 ^ 16 + 2 ^ 8 + 0x04) = some (.wrConfig 6) := by decide

/-! ### Host programs -/

/-- The encoding column of 95_test_vectors.md section 3. -/
theorem test_bus_text :
    busText (wr .keyClr 0) = "W 1C 00000000".toList ∧ busText (wr .digestIn0 0x1f869869) = "W 48 1F869869".toList ∧
    busText (rd .keyLen) = "R 24".toList ∧ busText (pollReg .status 1 0) = "R 0C".toList := by decide

/-- Three expansions of 30_encoding.md R100. -/
theorem test_pseudo :
    expand (.step 30) = [wr .stepLo 0x1E, wr .stepHi 0] ∧
    expand (.key [0x31, 0xFF]) = [wr .keyClr 0, wr .keyData 0x31, wr .keyData 0xFF] ∧
    expand .result = [pollReg .status 1 0, rd .status, rd .code] := by decide

/-! ### Reads -/

/-- The registers after reset (70_reset_and_hazards.md R240): ID, CONFIG = 0xF, all others 0. -/
theorem test_reads_at_reset :
    [Reg.id, .config, .cmd, .status, .keyLen, .counterLo, .digestIn4].map (fun r => look State.resp (exec (readInstr r) State.reset)) =
      [some (some (.okayRead 0x4F545031)), some (some (.okayRead 0x0000000F)), some (some (.okayRead 0)),
       some (some (.okayRead 0)), some (some (.okayRead 0)), some (some (.okayRead 0)), some (some (.okayRead 0))] := by
  decide

/-- The halves of the 64-bit registers, and the big-endian DIGEST_IN words (10_state.md R34, R37, R38). -/
theorem test_reads_of_halves :
    let s : State := { State.reset with st := { Block.reset with
      t0 := 0x0123456789ABCDEF, step := 0xFEDCBA9876543210, timeSample := 0x1122334455667788
      digestIn := hex20 0x1f8698690e02ca16618550ef7f19da8e945b555a } }
    [Reg.t0Lo, .t0Hi, .stepLo, .stepHi, .timeSampleLo, .timeSampleHi, .digestIn0, .digestIn4].map (fun r => regRead r s.st) =
      [0x89ABCDEF, 0x01234567, 0x76543210, 0xFEDCBA98, 0x55667788, 0x11223344, 0x1F869869, 0x945B555A] := by decide +kernel

/-! ### Writes -/

/-- CONFIG takes bits 3:0 only (10_state.md R24). -/
theorem test_wr_config : look (fun t => t.st.digits) (exec (.wrConfig 0xFFFFFFF6) State.reset) = some 6 := by decide

/-- KEY_DATA at 19 of 20 bytes appends, at 20 sets OVF; then KEY_LEN reads 0x80000014 (95_test_vectors.md 2.5). -/
theorem test_wr_key_data :
    look (fun t => keyLenWord t.st) (exec (.wrKeyData 0x41) (full false)) = some 0x80000014 ∧
    look (fun t => t.st.key) (exec (.wrKeyData 0x141) { full false with st := { Block.reset with key := [0x31] } }) =
      some [0x31, 0x41] := by decide

/-- KEY_CLR clears KEY_LEN and OVF, whatever its data (95_test_vectors.md 2.5). -/
theorem test_wr_key_clr : look (fun t => (keyLenWord t.st, t.st.keyBuf 20)) (exec (.wrKeyClr 7) (full true)) =
    some (0, List.replicate 20 0) := by decide

/-- The _LO and _HI writes (10_state.md R33 to R35). -/
theorem test_wr_halves :
    look (fun t => t.st.counter) (exec (.wrCounterLo 0xFFFFFFFF) (idle 6 0x0123456789ABCDEF)) = some 0x01234567FFFFFFFF ∧
    look (fun t => t.st.counter) (exec (.wrCounterHi 0xFFFFFFFF) (idle 6 0x0123456789ABCDEF)) = some 0xFFFFFFFF89ABCDEF ∧
    look (fun t => t.st.t0) (exec (.wrT0Hi 1) State.reset) = some 0x0000000100000000 ∧
    look (fun t => t.st.step) (exec (.wrStepLo 30) State.reset) = some 30 := by decide

/-- DIGEST_IN2 packs bytes 8 to 11 big-endian (10_state.md R38; 95_test_vectors.md P3). -/
theorem test_wr_digest : look (fun t => t.st.digestIn) (exec (.wrDigestIn2 0x618550ef) State.reset) =
    some (hex20 0x0000000000000000618550ef0000000000000000) := by decide +kernel

/-- A write to a read-only register is ignored (10_state.md R41). -/
theorem test_wr_read_only : nextOf (exec (.wrStatus 0xFFFFFFFF) (idle 6 5)) =
    some { idle 6 5 with resp := some .okayWrite } := by decide

/-- While BUSY: CONFIG unchanged, STATUS 0x09; GEN_COUNTER lost, the counter not advanced (95_test_vectors.md 2.5). -/
theorem test_write_while_busy :
    look (fun t => (t.st.digits, statusWord t.st)) (exec (.wrConfig 8) busy) = some (6, 0x00000009) ∧
    look (fun t => (t.st.counter, statusWord t.st)) (exec .genCounter busy) = some (0, 0x00000009) := by decide

/-! ### Commands: the acceptance rows of 95_test_vectors.md 2.5, and 2.1, 2.2 -/

/-- INVALID_DIGITS after reset and with DIGITS 12; the counter is unchanged. -/
theorem test_gen_counter_invalid :
    look (fun t => (statusWord t.st, t.st.counter)) (exec .genCounter State.reset) = some (0x00000026, 0) ∧
    look (fun t => (statusWord t.st, t.st.counter)) (exec .genCounter (idle 12 5)) = some (0x00000026, 5) := by decide

/-- PRODUCE_COUNTER: the big-endian bytes, and the wrap from 2^64 - 1 to 0. -/
theorem test_gen_counter_accepts :
    look (fun t => (t.st.latch, t.st.counter, statusWord t.st)) (exec .genCounter (idle 6 0x0123456789ABCDEF)) =
      some (some (.genCounter ⟨6, #v[0x01, 0x23, 0x45, 0x67, 0x89, 0xab, 0xcd, 0xef], [], false⟩), 0x0123456789ABCDF0, 1) ∧
    look (fun t => (t.st.counter, statusWord t.st)) (exec .genCounter (idle 6 0xFFFFFFFFFFFFFFFF)) = some (0, 1) := by
  decide

/-- GEN_TIME's rejections: STEP_ZERO without a sample, TIME_BEFORE_EPOCH with TIME_SAMPLE = 99. -/
theorem test_gen_time_rejects :
    look (fun t => (statusWord t.st, t.st.timeSample, t.nowIn)) (exec .genTime (timed 0 0 7)) = some (0x36, 0, [7]) ∧
    look (fun t => (statusWord t.st, t.st.timeSample, t.nowIn)) (exec .genTime (timed 100 30 99)) = some (0x46, 99, []) := by
  decide

/-- The steps of the time source: 59 s in steps of 30 s is 1; 39 s from epoch 10 is 0; the largest sample with step 1. -/
theorem test_gen_time_steps :
    [timeFactor 59 0 30, timeFactor 39 10 30, timeFactor 0xFFFFFFFFFFFFFFFF 0 1, timeFactor 20000000000 0 30] =
      [be64 1, be64 0, be64 0xFFFFFFFFFFFFFFFF, #v[0, 0, 0, 0, 0x27, 0xbc, 0x86, 0xaa]] := by decide +kernel

/-- TRUNCATE latches the digest, and rejects DIGITS 12 with 0x26 (95_test_vectors.md P3). -/
theorem test_truncate :
    look (fun t => (t.st.latch, statusWord t.st)) (exec .truncate (idle 6 0)) =
      some (some (.truncate 6 (Vector.replicate 20 0)), 1) ∧
    look (fun t => statusWord t.st) (exec .truncate (idle 12 0)) = some 0x26 := by decide

/-- ILLEGAL_CMD comes before INVALID_DIGITS. -/
theorem test_illegal_word :
    look (fun t => statusWord t.st) (exec (.wrCmd 4) (idle 6 0)) = some 0x56 ∧
    look (fun t => statusWord t.st) (exec (.wrCmd 0x10) (idle 12 0)) = some 0x56 := by decide

/-- NOP keeps every flag, here STATUS 0x16. -/
theorem test_nop : look (fun t => statusWord t.st) (exec .nop { State.reset with st := cmdError .hmacInit Block.reset }) =
    some 0x16 := by decide

/-! ### The engine: 95_test_vectors.md 1.1, 1.2, 2.3, 2.4 -/

/-- The HMAC of counter 0 under KRFC, of an empty key, and of a key of exactly the block size. -/
theorem test_hmac_short_keys :
    hmacSha1 krfc (be64 0) = hex20 0xcc93cf18508d94934c64b65d8ba7667fb7cde4b0 ∧
    hmacSha1 [] (be64 0) = hex20 0xdab69ad98e28764f977ee2487e4f3f6873b2a297 ∧
    hmacSha1 (List.replicate 64 0x61) (be64 0) = hex20 0xef4b3dff44abf830ec537f7996a27b92b5a7fc5d := by decide +kernel

/-- A key of 65 bytes is hashed first. -/
theorem test_hmac_long_key :
    sha1 (List.replicate 65 0x61) = hex20 0x11655326c708d70319be2610e8a57d9a5b959d3b ∧
    hmacSha1 (List.replicate 65 0x61) (be64 0) = hex20 0x0343a677719039e8fa131b0f503b3627e54f015e := by decide +kernel

/-- The datapath vectors: the mask, offset 15, the ignored bits 7:4 of the last byte, the source's example. -/
theorem test_datapath :
    truncateReduce (Vector.replicate 20 0xFF) 9 = ⟨15, 0x7FFFFFFF, 147483647⟩ ∧
    truncateReduce (hex20 0x80000001000000000000000000000000000000f0) 6 = ⟨0, 1, 1⟩ ∧
    truncateReduce (hex20 0x1f8698690e02ca16618550ef7f19da8e945b555a) 6 = ⟨10, 0x50EF7F19, 872921⟩ ∧
    truncateReduce (hex20 0x101112131415161718191a1b1c1d1e1f2021220f) 9 = ⟨15, 0x1F202122, 522199330⟩ := by decide +kernel

/-- The digit sweep of 95_test_vectors.md 2.4. -/
theorem test_digit_sweep : [reduce 2147483647 0, reduce 2147483647 1, reduce 2147483647 2, reduce 2147483647 3,
    reduce 2147483647 4, reduce 2147483647 5, reduce 2147483647 6, reduce 2147483647 7, reduce 2147483647 8,
    reduce 2147483647 9] =
    [0, 7, 47, 647, 3647, 83647, 483647, 7483647, 47483647, 147483647] := by decide +kernel

/-- HOTP counter 9 (the mask) and TOTP time 1111111109 (8 digits): the completions' CODE. -/
theorem test_completion_codes :
    (complete (busyWith (.genCounter ⟨6, be64 9, krfc, false⟩))).st.code = 520489 ∧
    (complete (busyWith (.genTime ⟨8, timeFactor 1111111109 0 30, krfc, false⟩))).st.code = 7081804 := by decide +kernel

/-- HMAC_INIT at completion: STATUS 0x16, CODE 0; TRUNCATE ignores the key's overflow. -/
theorem test_completion_hmac_init :
    statusWord (complete (busyWith (.genCounter ⟨6, be64 7, krfc, true⟩))).st = 0x16 ∧
    (complete (busyWith (.genCounter ⟨6, be64 7, krfc, true⟩))).st.code = 0 ∧
    statusWord (complete { busy with st := { busy.st with keyOvf := true } }).st = 0x02 := by decide +kernel

/-! ### Steps -/

/-- The first step after reset runs the word placed by withFetchWord. -/
theorem test_withFetchWord :
    nextOf (step (State.reset.withFetchWord 32 1)) = nextOf (exec .genCounter State.reset) ∧
    nextOf (step (State.reset.withFetchWord 8 0x0C)) = nextOf (exec .rdStatus State.reset) := by decide

/-- The two schedules of 95_test_vectors.md P5: the CONFIG write falls before the completion, or after it. -/
theorem test_schedules :
    look (fun t => (t.st.digits, statusWord t.st)) (step (running busy [wr .config 8] (some 1) [])) = some (6, 0x09) ∧
    look (fun t => (t.program, statusWord t.st)) (step (running busy [wr .config 8] (some 0) [])) =
      some ([wr .config 8], 0x02) := by decide +kernel

/-- A bus error changes nothing in the block and is recorded, also while BUSY (95_test_vectors.md 2.5). -/
theorem test_bus_error :
    nextOf (step (running busy [.bus ⟨0x0A, .four, true, 0⟩] (some 1) [])) =
      some { busy with
        wait := some 0
        resp := some .slverr
        hostFault := some (.slverr .misaligned) } := by decide

/-- A poll stays in the program while BUSY, and leaves it when IDLE (30_encoding.md R99). -/
theorem test_poll :
    look State.program (step (running busy [pollReg .status 1 0] (some 1) [])) = some [pollReg .status 1 0] ∧
    look State.program (step (running State.reset [pollReg .status 1 0] none [])) = some [] := by decide

/-- The reset input abandons a command in flight (70_reset_and_hazards.md R241). -/
theorem test_reset_input : nextOf (step (running busy [wr .config 8] (some 3) [true])) =
    some { State.reset with program := [wr .config 8] } := by decide

/-! ### Witnesses: a state that meets the hypotheses of each obligation, and of each clause -/

/-- ReadOnlyRegistersIgnoreWrites, ConfigAndHalfWritesReplaceTheirField, KeyClearZeroisesTheKeyBuffer,
DigestWordWriteSetsItsFourBytes, BothHalvesMakeTheWholeRegister: an idle state. -/
theorem witness_idle : State.reset.st.busy = false ∧ (idle 6 0xFFFFFFFFFFFFFFFF).st.busy = false := by decide

/-- WriteWhileBusyOnlySetsBusyWr: a busy state, a write and a read. -/
theorem witness_WriteWhileBusyOnlySetsBusyWr : busy.st.busy = true ∧ (encode (.wrId 0)).write = true ∧
    (encode .truncate).write = true ∧ (encode .rdStatus).write = false := by decide

/-- KeyDataAppendsOrDrops: one byte of room, and no room. -/
theorem witness_KeyDataAppendsOrDrops :
    let room := { full false with st := { (full false).st with key := krfc.drop 1 } }
    room.st.busy = false ∧ room.st.key.length < room.keyCap ∧ room.st.key.length + 1 = room.keyCap ∧
    (full false).st.busy = false ∧ (full false).keyCap ≤ (full false).st.key.length := by decide

/-- NopHasNoEffect: idle and busy. -/
theorem witness_NopHasNoEffect : State.reset.st.busy = false ∧ busy.st.busy = true := by decide

/-- GenCounterAcceptance, TruncateAcceptance, CmdWriteOfALegalWordIsItsCommand: DIGITS 0, 9 and 10. -/
theorem witness_digits : (idle 0 0).st.busy = false ∧ (idle 0 0).st.digits.toNat = (0 : Digits).val ∧
    (idle 9 0).st.digits.toNat = (9 : Digits).val ∧ (idle 10 0).st.busy = false ∧ 9 < (idle 10 0).st.digits.toNat := by
  decide

/-- GenTimeAcceptance: DIGITS 10; STEP 0; a scripted sample one before T0, and at T0. -/
theorem witness_GenTimeAcceptance :
    9 < (idle 10 0).st.digits.toNat ∧
    ((timed 100 0 99).st.busy = false ∧ (timed 100 0 99).st.digits.toNat ≤ 9 ∧ (timed 100 0 99).st.step = 0) ∧
    ((timed 100 30 99).st.digits.toNat = (6 : Digits).val ∧ (timed 100 30 99).st.step ≠ 0 ∧
      sampled (timed 100 30 99) 99 { timed 100 30 99 with nowIn := [] } ∧
      (99#64).toNat < (timed 100 30 99).st.t0.toNat) ∧
    ((timed 100 30 100).st.busy = false ∧ (timed 100 30 100).st.step ≠ 0 ∧
      sampled (timed 100 30 100) 100 { timed 100 30 100 with nowIn := [] } ∧
      (timed 100 30 100).st.t0.toNat ≤ (100#64).toNat) :=
  ⟨by decide, by decide, ⟨by decide, by decide, .inl ⟨[], rfl, rfl⟩, by decide⟩,
    ⟨by decide, by decide, .inl ⟨[], rfl, rfl⟩, by decide⟩⟩

/-- GenTimeAcceptance, TotpResultLaw: a sample drawn from the free value, which is never before the epoch T0 = 0. -/
theorem witness_sample_drawn :
    let s := { timed 0 30 0 with nowIn := [] }
    sampled s (Config.nowSec 0) { s with draws := 1 } ∧ s.st.t0.toNat ≤ (Config.nowSec 0).toNat ∧ s.st.step ≠ 0 :=
  ⟨.inr ⟨rfl, rfl, rfl⟩, Nat.zero_le _, by decide⟩

/-- IllegalWordIsRejected: the least illegal OP, the least reserved bit, the largest word. -/
theorem witness_IllegalWordIsRejected :
    State.reset.st.busy = false ∧ 4 ≤ ((4#32).extractLsb' 0 4).toNat ∧ (0x10#32).extractLsb' 4 28 ≠ 0 ∧
    (0xFFFFFFF3#32).extractLsb' 4 28 ≠ 0 := by decide

/-- CompletionWritesTheResultsOfTheLatch: each latch record, OVF set and clear, and no record. -/
theorem witness_CompletionWritesTheResultsOfTheLatch :
    (busyWith (.genCounter ⟨6, be64 0, krfc, true⟩)).st.latch = some (.genCounter ⟨6, be64 0, krfc, true⟩) ∧
    (busyWith (.genTime ⟨0, be64 0, [], false⟩)).st.latch = some (.genTime ⟨0, be64 0, [], false⟩) ∧
    busy.st.latch = some (.truncate 6 (Vector.replicate 20 0xFF)) ∧ State.reset.st.latch = none := by decide

/-- EngineCompletesAtItsTurn: latency 0, a latency with no statement left, none drawn, a scripted 0, and idle. -/
theorem witness_EngineCompletesAtItsTurn :
    noReset (running busy [wr .config 8] (some 0) [false, true]) [true] ∧ busy.st.busy = true ∧
    ((running busy [] (some 5) []).wait = some 5 ∧ (running busy [] (some 5) []).program = [] ∧
      noReset (running busy [] (some 5) []) []) ∧
    (busy.wait = none ∧ busy.program = [] ∧ noReset busy []) ∧
    ({ busy with latencyIn := [0, 4] }.latencyIn = 0 :: [4]) ∧
    (State.reset.st.busy = false ∧ State.reset.program = [] ∧ noReset State.reset []) :=
  ⟨.inl rfl, by decide, ⟨rfl, rfl, .inr ⟨rfl, rfl⟩⟩, ⟨rfl, rfl, .inr ⟨rfl, rfl⟩⟩, rfl, by decide, rfl, .inr ⟨rfl, rfl⟩⟩

/-- DatapathComputesOffsetSnumAndCode, WindowStaysInsideTheDigest: the offsets 0 and 15, and the last index. -/
theorem witness_DatapathComputesOffsetSnumAndCode :
    (truncateReduce (hex20 0xF0) 0).offset.toNat = (0 : Fin 16).val ∧
    (truncateReduce (hex20 0x0F) 9).offset.toNat = (15 : Fin 16).val ∧
    (selectOffset (hex20 0x0F)).toNat + (3 : Fin 4).val < 20 := by decide +kernel

/-- HashInputSizes: the inner and the outer message; LongKeysAreHashedFirst: keys of 65, 64 and 63 bytes. -/
theorem witness_hash_lengths :
    (List.replicate 72 (0 : Byte)).length = 72 ∧ (List.replicate 84 (0 : Byte)).length = 84 ∧
    64 < (List.replicate 65 (0 : Byte)).length ∧ (List.replicate 64 (0 : Byte)).length = 64 ∧
    (List.replicate 63 (0 : Byte)).length < 64 := by decide

/-- ErrorCodesAreThoseOfTheTable: equal codes. -/
theorem witness_ErrorCodesAreThoseOfTheTable : errBits .stepZero = errBits .stepZero := rfl

/-- RejectionMutatesNothingElse: each of the four rejections ends IDLE. -/
theorem witness_RejectionMutatesNothingElse :
    look (fun t => (t.st.busy, t.st.errcode)) (exec (.wrCmd 4) (idle 6 0)) = some (false, .illegalCmd) ∧
    look (fun t => (t.st.busy, t.st.errcode)) (exec .truncate (idle 10 0)) = some (false, .invalidDigits) ∧
    look (fun t => (t.st.busy, t.st.errcode)) (exec .genTime (timed 0 0 7)) = some (false, .stepZero) ∧
    look (fun t => (t.st.busy, t.st.errcode)) (exec .genTime (timed 100 30 99)) = some (false, .timeBeforeEpoch) := by
  decide

/-- ResetSetsEveryStateItem: the reset input asserted while BUSY. -/
theorem witness_ResetSetsEveryStateItem : (running busy [] (some 3) [true]).resetIn = true :: [] ∧
    busy.st.busy = true := by decide

/-- StepRunsTheDecodedInstruction: idle; busy with a latency left, a scripted one, and one to be drawn. -/
theorem witness_StepRunsTheDecodedInstruction :
    (decode (writeAt 0x04 6) = .ok (.wrConfig 6) ∧ noReset (running State.reset [wr .config 6] none []) [] ∧
      (running State.reset [wr .config 6] none []).program = .bus (writeAt 0x04 6) :: []) ∧
    (running busy [wr .config 6] (some 1) []).wait = some (0 + 1) ∧
    ({ running busy [wr .config 6] none [] with latencyIn := [1] }.latencyIn = (0 + 1) :: [] ∧
      (running busy [wr .config 6] none []).wait = none) ∧
    (running busy [wr .config 6] none []).latencyIn = [] ∧ busy.st.busy = true :=
  ⟨⟨by decide, .inr ⟨rfl, rfl⟩, rfl⟩, rfl, ⟨rfl, rfl⟩, rfl, by decide⟩

/-- PollRepeatsItsReadUntilItMatches: CONFIG reads 0xF after reset, which a poll for 0xF matches and one for 6 does
not; a misaligned and the two outermost unmapped raw offsets. -/
theorem witness_PollRepeatsItsReadUntilItMatches :
    (running State.reset [pollReg .config 0xF 6] none []).program = .poll Reg.config.off 0xF 6 :: [] ∧
    noReset (running State.reset [pollReg .config 0xF 6] none []) [] ∧ State.reset.st.busy = false ∧
    exec (readInstr .config) State.reset = .next { State.reset with resp := some (.okayRead 0xF) } ∧
    0xF#32 &&& 0xF = 0xF ∧ 0xF#32 &&& 0xF ≠ 6 ∧ (0x5B#8).toNat % 4 ≠ 0 ∧
    ((0x5C#8).toNat % 4 = 0 ∧ 0x5C ≤ (0x5C#8).toNat) ∧ ((0xFC#8).toNat % 4 = 0 ∧ 0x5C ≤ (0xFC#8).toNat) :=
  ⟨rfl, .inr ⟨rfl, rfl⟩, by decide, rfl, by decide, by decide, by decide, by decide, by decide⟩

/-- PollRepeatsItsReadUntilItMatches while BUSY: the wait loop, whose STATUS reads 1, with a latency drawn, scripted, and
to be drawn. -/
theorem witness_poll_while_busy :
    let s := running busy (expand .wait) (some 1) [false]
    s.program = .poll Reg.status.off 1 0 :: [] ∧ noReset s [] ∧ s.st.busy = true ∧ s.wait = some (0 + 1) ∧
    exec (readInstr .status) s = .next { s with resp := some (.okayRead 1) } ∧ 1#32 &&& 1 ≠ 0 ∧
    { s with wait := none, latencyIn := [1] }.latencyIn = (0 + 1) :: [] ∧ { s with wait := none }.latencyIn = [] :=
  ⟨rfl, .inl rfl, rfl, rfl, rfl, by decide, rfl, rfl⟩

/-- SlverrChangesNothingInTheBlock: the three errors at the edges of the map, and both agents' steps. -/
theorem witness_SlverrChangesNothingInTheBlock :
    Size.two ≠ .four ∧ (0x5B#8).toNat % 4 ≠ 0 ∧ ((0x5C#8).toNat % 4 = 0 ∧ 0x5C ≤ (0x5C#8).toNat) ∧
    ((0xFC#8).toNat % 4 = 0 ∧ 0x5C ≤ (0xFC#8).toNat) ∧
    noReset (running State.reset [.bus (readAt 0x5C)] none [false]) [] ∧
    (running busy [.bus (readAt 0x5C)] (some 1) []).wait = some (0 + 1) :=
  ⟨by decide, by decide, by decide, by decide, .inl rfl, rfl⟩

/-- CommandDecodeIsTotal: the least illegal word, to an idle block. -/
theorem witness_CommandDecodeIsTotal : decodeCmd 4 = .illegal ∧ State.reset.st.busy = false := by decide

/-- DecodeAdmitsExactlyMappedWords: the last register, the first slot without one, and its transaction. -/
theorem witness_DecodeAdmitsExactlyMappedWords :
    (readAt 0x58).size = .four ∧ (readAt 0x58).off = Reg.digestIn4.off ∧ 23 ≤ 23 ∧ ¬∃ i, decode (readAt 0x5C) = .ok i :=
  ⟨rfl, rfl, le_rfl, fun ⟨_, h⟩ => by simp [decode, checkAddress, readAt, regOfSlot] at h⟩

/-- DecodeEncodeRoundTrip, EncodeDecodeRoundTrip, NumberedBitsRoundTrip: a well-formed instruction and its words. -/
theorem witness_round_trips :
    (Instr.wrCmd 4).wf = true ∧ decode (writeAt 0x08 4) = .ok (.wrCmd 4) ∧ decode ⟨0x08, .four, false, 9⟩ = .ok .rdCmd ∧
    transactionOfBits (4 * 2 ^ 16 + 2 ^ 8 + 0x08) = some (writeAt 0x08 4) := by decide

/-- EveryStepKeepsTheInvariant: a full key with OVF, BUSY with a latched full key, takes a step. -/
theorem witness_EveryStepKeepsTheInvariant :
    let s := { full true with st := { (full true).st with latch := some (.genCounter ⟨6, be64 7, krfc, true⟩) } }
    MachineInv s ∧ ∃ t, step s = .next t :=
  ⟨⟨by decide, by decide, by decide, by decide, by decide, by decide, 0, by decide⟩, _, rfl⟩

/-- HostFaultIsNeverCleared: a recorded fault, and a step that records the first one. -/
theorem witness_HostFaultIsNeverCleared :
    (∃ t, step { State.reset with hostFault := some (.slverr .narrow) } = .next t ∧
      t.hostFault = some (.slverr .narrow)) ∧
    ∃ t, step (running State.reset [.bus (readAt 0x5C)] none []) = .next t ∧ State.reset.hostFault = none ∧
      t.hostFault ≠ none :=
  ⟨⟨_, rfl, rfl⟩, _, rfl, rfl, by decide⟩

/-- EveryCommandCompletes, BusyBlockChangesOnlyBusyWrUntilItCompletes: a busy state and its step. -/
theorem witness_busy_step : busy.st.busy = true ∧ ∃ t, step (running busy [wr .config 8] (some 2) []) = .next t :=
  ⟨by decide, _, rfl⟩

/-- PollOnBusyEnds: the poll of the pseudo-instruction `wait`. -/
theorem witness_PollOnBusyEnds : (running busy (expand .wait) none []).program =
    .poll Reg.status.off 0x00000001#32 0x00000000#32 :: [] := rfl

/-- ResultDependsOnTheLatchAlone: two states that share a latch and differ elsewhere. -/
theorem witness_ResultDependsOnTheLatchAlone :
    let l : Latch := .genCounter ⟨6, be64 0, krfc, false⟩
    let t := { busyWith l with st := { (busyWith l).st with digits := 9, busyWr := true } }
    (busyWith l).st.latch = some l ∧ t.st.latch = some l ∧ busyWith l ≠ t ∧
    (∀ j, l = .genCounter j ∨ l = .genTime j → j.keyOvf = false) ∧
    (busyWith (.genTime ⟨6, be64 0, krfc, false⟩)).st.latch = some (.genTime ⟨6, be64 0, krfc, false⟩) := by
  refine ⟨rfl, rfl, by decide, ?_, rfl⟩
  rintro j (h | h) <;> cases h
  rfl

/-- ResultDependsOnTheLatchAlone with OVF latched: two states that meet the invariant, with the two commands' latches. -/
theorem witness_ResultDependsOnTheLatchAlone_ovf :
    let j : HmacJob := ⟨6, be64 0, krfc, true⟩
    let s := { full true with st := { (full true).st with latch := some (.genCounter j) } }
    let t := { full false with st := { (full false).st with latch := some (.genCounter j) } }
    let u := { full false with st := { (full false).st with latch := some (.genTime j) } }
    s.st.latch = some (.genCounter j) ∧ t.st.latch = some (.genCounter j) ∧ u.st.latch = some (.genTime j) ∧
    s ≠ t ∧ MachineInv s ∧ MachineInv t ∧ MachineInv u := by
  refine ⟨rfl, rfl, rfl, by decide, ?_, ?_, ?_⟩ <;>
    exact ⟨by decide, by decide, by decide, by decide, by decide, by decide, 0, by decide⟩

/-- HotpResultLaw: an accepted GEN_COUNTER, one busy step, and the completion. -/
theorem witness_HotpResultLaw :
    let s := { State.reset with
      st := { Block.reset with digits := 6, key := krfc }
      program := [wr .config 8]
      latencyIn := [1] }
    s.st.busy = false ∧ s.st.digits.toNat = (6 : Digits).val ∧ s.st.keyOvf = false ∧
    ∃ t v u, exec .genCounter s = .next t ∧ staysBusy 1 t v ∧ step v = .next u ∧ u.st.busy = false ∧
      ∀ levels, v.resetIn ≠ true :: levels := by
  refine ⟨by decide, by decide, by decide, _, _, _, rfl, ⟨rfl, _, rfl, rfl, rfl⟩, rfl, rfl, ?_⟩
  intro levels h
  cases h

/-- TotpResultLaw: an accepted GEN_TIME at sample T0, and its completion at once. -/
theorem witness_TotpResultLaw :
    let s := timed 100 30 100
    s.st.busy = false ∧ s.st.digits.toNat = (6 : Digits).val ∧ s.st.keyOvf = false ∧ s.st.step ≠ 0 ∧
    sampled s 100 { s with nowIn := [] } ∧ s.st.t0.toNat ≤ (100#64).toNat ∧
    ∃ t v u, exec .genTime s = .next t ∧ staysBusy 0 t v ∧ step v = .next u ∧ u.st.busy = false ∧
      ∀ levels, v.resetIn ≠ true :: levels := by
  refine ⟨by decide, by decide, by decide, by decide, .inl ⟨[], rfl, rfl⟩, by decide, _, _, _, rfl, ⟨rfl, rfl⟩, rfl, rfl, ?_⟩
  intro levels h
  cases h

/-- HmacInitLeavesTheCounterAdvanced: an accepted GEN_COUNTER with dropped key bytes, and its completion. -/
theorem witness_HmacInitLeavesTheCounterAdvanced :
    let s := full true
    s.st.busy = false ∧ s.st.digits.toNat ≤ 9 ∧ s.st.keyOvf = true ∧
    ∃ t v u, exec .genCounter s = .next t ∧ staysBusy 0 t v ∧ step v = .next u ∧ u.st.busy = false ∧
      ∀ levels, v.resetIn ≠ true :: levels := by
  refine ⟨by decide, by decide, by decide, _, _, _, rfl, ⟨rfl, rfl⟩, rfl, rfl, ?_⟩
  intro levels h
  cases h

/-- TimeWindowStability: the ends of the window of 95_test_vectors.md P2, and the next window. -/
theorem witness_TimeWindowStability : (30#64) ≠ 0 ∧ (0#64).toNat ≤ (45#64).toNat ∧
    ((45#64).toNat - 0) / (30#64).toNat = ((59#64).toNat - 0) / (30#64).toNat ∧
    ((60#64).toNat - 0) / (30#64).toNat ≠ ((59#64).toNat - 0) / (30#64).toNat := by decide

/-- CounterSequenceLaw: an idle state with DIGITS 9 and OVF set. -/
theorem witness_CounterSequenceLaw :
    let s := { full true with st := { (full true).st with digits := 9 } }
    s.st.busy = false ∧ s.st.digits.toNat ≤ 9 := by decide

/-- KeyAndCounterAreNeverReadable: another key of the same length, and both runs of KEY_LEN's read. -/
theorem witness_KeyAndCounterAreNeverReadable :
    [0x41#8].length = [0x42#8].length ∧ (none : Option Latch).isSome = State.reset.st.latch.isSome ∧
    ∃ t, exec .rdKeyLen State.reset = .next t := ⟨rfl, rfl, _, rfl⟩

/-- OnlyTheseEventsChangeTheCounter: the three kinds of step that change it. -/
theorem witness_OnlyTheseEventsChangeTheCounter :
    (∃ t, step (running (idle 6 5) [] none [true]) = .next t ∧ t.st.counter ≠ 5) ∧
    (∃ t, step (running (idle 6 5) [wr .counterHi 1] none []) = .next t ∧ t.st.counter ≠ 5) ∧
    ∃ t, step (running (idle 6 5) [wr .cmd 1] none []) = .next t ∧ t.st.counter ≠ 5 :=
  ⟨⟨_, rfl, by decide⟩, ⟨_, rfl, by decide⟩, _, rfl, by decide⟩

/-- SequencerTransitions: a step into BUSY, and a step out of it. -/
theorem witness_SequencerTransitions :
    (∃ t, step (running (idle 6 5) [wr .cmd 3] none []) = .next t ∧ (idle 6 5).st.busy = false ∧ t.st.busy = true) ∧
    ∃ t, step busy = .next t ∧ busy.st.busy = true ∧ t.st.busy = false :=
  ⟨⟨_, rfl, by decide, rfl⟩, _, rfl, by decide, rfl⟩

/-- OnlyCommandsTouchResultsAndStatus: a read, and a write while BUSY. -/
theorem witness_OnlyCommandsTouchResultsAndStatus :
    (∀ w, Instr.wrCode 0 ≠ .wrCmd w) ∧ Instr.wrCode 0 ≠ .genTime ∧ ∃ t, exec (.wrCode 0) busy = .next t :=
  ⟨fun w h => (by cases h), by decide, _, rfl⟩

/-- ReadsAndConfigurationWritesAreIdempotent: a write named in the list; KEY_DATA with room for two bytes, for one, and
for none; an accepted GEN_COUNTER; a command that clears the results. -/
theorem witness_ReadsAndConfigurationWritesAreIdempotent :
    let room := { full false with st := { (full false).st with key := krfc.drop 1 } }
    Instr.wrDigestIn4 7 ∈ [Instr.wrKeyClr 7, .wrDigestIn4 7] ∧ State.reset.st.key.length + 1 < State.reset.keyCap ∧
    room.st.key.length + 1 = room.keyCap ∧ (full false).keyCap ≤ (full false).st.key.length ∧
    (∃ t u, exec (.wrKeyData 1) room = .next t ∧ exec (.wrKeyData 1) t = .next u) ∧
    ((idle 9 0).st.busy = false ∧ (idle 9 0).st.digits.toNat ≤ 9) ∧ ∃ t, exec (.wrCmd 4) (idle 9 0) = .next t :=
  ⟨by decide, by decide, by decide, by decide, ⟨_, _, rfl, rfl⟩, by decide, _, rfl⟩

/-- The key text of 95_test_vectors.md begins with the bytes 31 32; ASCII ends at code 127 (30_encoding.md R100). -/
theorem test_key_text : asciiBytes ['1', '2', '~'] = [0x31, 0x32, 0x7E] := by decide

/-- BothHalvesMakeTheWholeRegister, ParameterAndEnvironmentAreKept: two writes in a row, and a step. -/
theorem witness_two_writes :
    (∃ t u, exec (.wrCounterLo 0xFFFFFFFF) State.reset = .next t ∧ exec (.wrCounterHi 0) t = .next u) ∧
    (∃ t u, exec (.wrT0Lo 1) State.reset = .next t ∧ exec (.wrT0Hi 2) t = .next u) ∧
    (∃ t u, exec (.wrStepLo 1) State.reset = .next t ∧ exec (.wrStepHi 2) t = .next u) ∧
    (∃ t u, exec (.wrT0Hi 0xFFFFFFFF) State.reset = .next t ∧ exec (.wrT0Lo 0) t = .next u) ∧
    (∃ t u, exec (.wrStepHi 0xFFFFFFFF) State.reset = .next t ∧ exec (.wrStepLo 0) t = .next u) ∧
    ∃ t, step State.reset = .next t :=
  ⟨⟨_, _, rfl, rfl⟩, ⟨_, _, rfl, rfl⟩, ⟨_, _, rfl, rfl⟩, ⟨_, _, rfl, rfl⟩, ⟨_, _, rfl, rfl⟩, _, rfl⟩

end Sys2Proof.Tests
end

section
/-! The statements of 00_scope.md: byte order (R12), KEY_CAP and the block's surroundings (R8), the register window. -/

namespace Sys2Proof

/-- Exactly the addresses outside the 256 bytes from BASE_ADDR have no offset (20_memory.md R61). -/
theorem windowOffset_eq_none_iff {a : Nat} :
    windowOffset a = none ↔ a < Config.baseAddr ∨ Config.baseAddr + 256 ≤ a := by
  unfold windowOffset
  split <;> simp <;> omega

/-- Settles O56, from what `windowOffset` answers inside and outside the window. -/
theorem windowIsThe256BytesAtTheBaseAddress : Obligations.WindowIsThe256BytesAtTheBaseAddress :=
  ⟨fun _ _ => windowOffset_eq_some_iff, rfl, fun _ => windowOffset_eq_some_iff.mpr rfl,
    fun _ => windowOffset_eq_none_iff⟩

end Sys2Proof

namespace Sys2Proof.Machine

/-! ### Byte order -/

/-- Byte `k` of a value as a number. -/
theorem byteOf_toNat {n : Nat} (v : BitVec n) (k : Nat) : (byteOf v k).toNat = v.toNat / 2 ^ (8 * k) % 256 := by
  simp [byteOf, BitVec.extractLsb'_toNat, Nat.shiftRight_eq_div_pow]

/-- Byte `k` of a value is the byte of that number. -/
theorem byteOf_eq_iff {n : Nat} {v : BitVec n} {k : Nat} {b : Byte} :
    byteOf v k = b ↔ v.toNat / 2 ^ (8 * k) % 256 = b.toNat := by
  rw [← BitVec.toNat_inj, byteOf_toNat]

/-- Packing the four bytes of a word gives the word back (00_scope.md R12). -/
theorem be32dec_be32 (v : Word) : be32dec (be32 v)[0] (be32 v)[1] (be32 v)[2] (be32 v)[3] = v := by
  apply BitVec.eq_of_toNat_eq
  have hv := v.isLt
  have hbytes : (be32dec (byteOf v 3) (byteOf v 2) (byteOf v 1) (byteOf v 0)).toNat = v.toNat := by
    simp only [be32dec_toNat, byteOf_toNat]
    omega
  exact hbytes

/-- The four bytes of a packed word are the bytes it was packed from (00_scope.md R12). -/
theorem be32_be32dec (b0 b1 b2 b3 : Byte) : be32 (be32dec b0 b1 b2 b3) = #v[b0, b1, b2, b3] := by
  have h0 := b0.isLt
  have h1 := b1.isLt
  have h2 := b2.isLt
  have h3 := b3.isLt
  have byte3 : byteOf (be32dec b0 b1 b2 b3) 3 = b0 := byteOf_eq_iff.mpr (by rw [be32dec_toNat]; omega)
  have byte2 : byteOf (be32dec b0 b1 b2 b3) 2 = b1 := byteOf_eq_iff.mpr (by rw [be32dec_toNat]; omega)
  have byte1 : byteOf (be32dec b0 b1 b2 b3) 1 = b2 := byteOf_eq_iff.mpr (by rw [be32dec_toNat]; omega)
  have byte0 : byteOf (be32dec b0 b1 b2 b3) 0 = b3 := byteOf_eq_iff.mpr (by rw [be32dec_toNat]; omega)
  simp only [be32, byte3, byte2, byte1, byte0]

/-- Settles O21, by the value of each byte as a number. -/
theorem byteOrderFunctions : Obligations.ByteOrderFunctions :=
  ⟨fun v i => by rw [be64_getElem, byteOf_toNat], be32dec_toNat, be32dec_be32, be32_be32dec⟩

/-! ### What an instruction changes outside the block -/

/-- `u` is `s` with a change in the block alone. -/
def BlockChange (s u : State) : Prop := ∃ f, u = s.onSt f

theorem BlockChange.refl (s : State) : BlockChange s s := ⟨id, rfl⟩

theorem BlockChange.trans {s u v : State} : BlockChange s u → BlockChange u v → BlockChange s v := by
  rintro ⟨f, rfl⟩ ⟨g, rfl⟩
  exact ⟨g ∘ f, rfl⟩

theorem blockChange_onSt (f : Block → Block) (s : State) : BlockChange s (s.onSt f) := ⟨f, rfl⟩

/-- Taking a sample and changing the block commute. -/
theorem takeSample_onSt (f : Block → Block) (s : State) : takeSample (s.onSt f) = (takeSample s).onSt f := by
  unfold takeSample
  simp only [onSt_nowIn]
  split <;> rfl

/-- Acceptance changes the block alone where the command's own part does. -/
theorem acceptChecked_blockChange {own : Digits → State → State} (hown : ∀ d u, BlockChange u (own d u)) (s : State) :
    BlockChange s (acceptChecked own s) := by
  rcases acceptChecked_cases own s with ⟨d, -, h⟩ | ⟨-, h⟩ <;> rw [h]
  · exact (blockChange_onSt _ s).trans (hown d _)
  · exact blockChange_onSt _ s

/-- GEN_TIME's acceptance changes the block alone, but for the sample where it takes one (40_byte_source.md R116). -/
theorem acceptTime_blockChange (s : State) : BlockChange s (acceptChecked acceptTime s) ∨
    BlockChange (takeSample s) (acceptChecked acceptTime s) := by
  rcases acceptChecked_cases acceptTime s with ⟨d, -, h⟩ | ⟨-, h⟩ <;> rw [h]
  · rcases acceptTime_cases d (s.onSt clearForAcceptance) with ⟨-, h⟩ | ⟨-, h⟩ <;> rw [h]
    · exact .inl ((blockChange_onSt _ s).trans (blockChange_onSt _ _))
    · rw [takeSample_onSt]
      exact .inr ((blockChange_onSt _ _).trans (blockChange_onSt _ _))
  · exact .inl (blockChange_onSt _ s)

/-- The acceptance of a word changes the block alone, but for the sample where it takes one. -/
theorem acceptWord_blockChange (w : Word) (s : State) :
    BlockChange s (acceptWord w s) ∨ BlockChange (takeSample s) (acceptWord w s) := by
  rcases acceptWord_cases w s with ⟨-, h⟩ | ⟨-, h⟩ | ⟨-, h⟩ | ⟨-, h⟩ | ⟨-, h⟩ <;> rw [h]
  · exact .inl (.refl s)
  · exact .inl (blockChange_onSt _ s)
  · exact .inl (acceptChecked_blockChange (fun _ => blockChange_onSt _) s)
  · exact acceptTime_blockChange s
  · exact .inl (acceptChecked_blockChange (fun _ => blockChange_onSt _) s)

/-- The instructions that may take a sample of the time input: GEN_TIME, and a write of a word to CMD. -/
def MaySample (i : Instr) : Prop := i = .genTime ∨ ∃ w, i = .wrCmd w

/-- A write's effect is on the block alone, but for the sample of an instruction that may take one. -/
theorem exec_write_blockChange {i : Instr} (hi : (encode i).write = true) (s : State) :
    ∃ f, exec i s = hostAccess f s ∧ (BlockChange s (f s) ∨ MaySample i ∧ BlockChange (takeSample s) (f s)) := by
  cases i with
  | nop => exact ⟨id, rfl, .inl (.refl s)⟩
  | genCounter | truncate => exact ⟨_, rfl, .inl (acceptChecked_blockChange (fun _ => blockChange_onSt _) s)⟩
  | genTime => exact ⟨_, rfl, (acceptTime_blockChange s).imp_right fun h => ⟨.inl rfl, h⟩⟩
  | wrCmd w => exact ⟨_, rfl, (acceptWord_blockChange w s).imp_right fun h => ⟨.inr ⟨w, rfl⟩, h⟩⟩
  | rdId | rdConfig | rdCmd | rdStatus | rdCode | rdSnum | rdOffset | rdKeyClr | rdKeyData | rdKeyLen
  | rdCounterLo | rdCounterHi | rdT0Lo | rdT0Hi | rdStepLo | rdStepHi | rdTimeSampleLo | rdTimeSampleHi
  | rdDigestIn0 | rdDigestIn1 | rdDigestIn2 | rdDigestIn3 | rdDigestIn4 => cases hi
  | _ => exact ⟨_, rfl, .inl (blockChange_onSt _ s)⟩

/-- An instruction changes the block and the bus answer, and nothing else but for the sample it may take. -/
theorem exec_blockChange {i : Instr} {s t : State} (h : exec i s = .next t) :
    ∃ u r, t = u.answer r ∧ (BlockChange s u ∨ MaySample i ∧ BlockChange (takeSample s) u) := by
  rcases exec_read_or_access i with ⟨-, r, -, hr⟩ | ⟨hi, -⟩
  · rw [hr] at h
    cases h
    exact ⟨s, _, rfl, .inl (.refl s)⟩
  · obtain ⟨f, hf, hc⟩ := exec_write_blockChange hi s
    cases hb : s.st.busy with
    | true =>
      rw [hf, hostAccess_busy hb] at h
      cases h
      exact ⟨_, _, rfl, .inl (blockChange_onSt _ s)⟩
    | false =>
      rw [hf, hostAccess_idle hb] at h
      cases h
      exact ⟨_, _, rfl, hc⟩

/-- No instruction changes KEY_CAP, the host's side, the reset levels or the latency. -/
theorem exec_environment {i : Instr} {s t : State} (h : exec i s = .next t) :
    t.keyCap = s.keyCap ∧ t.program = s.program ∧ t.hostFault = s.hostFault ∧ t.resetIn = s.resetIn ∧
      t.latencyIn = s.latencyIn ∧ t.wait = s.wait := by
  obtain ⟨_, r, rfl, ⟨f, rfl⟩ | ⟨-, f, rfl⟩⟩ := exec_blockChange h <;> simp

/-- Only an instruction that may take a sample changes the time script or the draw counter. -/
theorem exec_time_script {i : Instr} {s t : State} (h : exec i s = .next t) (hi : ¬MaySample i) :
    t.nowIn = s.nowIn ∧ t.draws = s.draws := by
  obtain ⟨_, r, rfl, ⟨f, rfl⟩ | ⟨hs, -⟩⟩ := exec_blockChange h
  · exact ⟨rfl, rfl⟩
  · exact absurd hs hi

/-- No step, a reset included, changes KEY_CAP (00_scope.md R8). -/
theorem step_keyCap {s t : State} (h : step s = .next t) : t.keyCap = s.keyCap := by
  rcases step_cases h with ⟨levels, -, rfl⟩ | ⟨-, u, hu, rfl⟩ | ⟨-, -, hst⟩ | ⟨u, v, tr, i, hv, -, -, -, -, hx⟩ |
    ⟨v, tr, e, hv, -, rfl⟩
  · rfl
  · rw [complete_keyCap, hu.keyCap]
  · exact hst.keyCap
  · rw [(exec_environment hx).1, hv.keyCap]
  · exact hv.keyCap

/-- Settles O55, by the cases of a step and the frame of an instruction outside the block. -/
theorem parameterAndEnvironmentAreKept : Obligations.ParameterAndEnvironmentAreKept := by
  refine ⟨fun _ _ => step_keyCap, fun i s t h => ?_⟩
  obtain ⟨hcap, hprogram, hfault, hreset, hlatency, hwait⟩ := exec_environment h
  refine ⟨hcap, hprogram, hfault, hreset, hlatency, hwait, fun hg hw => exec_time_script h ?_⟩
  rintro (hi | ⟨w, hi⟩)
  · exact hg hi
  · exact hw w hi

end Sys2Proof.Machine
end

section
/-! The statements of 10_state.md: the registers' reads and writes, the sequencer, and the invariant every step keeps. -/

namespace Sys2Proof.Machine

/-! ### What the registers read as -/

/-- STATUS as the sum of its fields, each at its place (10_state.md R26). -/
theorem statusWord_eq_sum (b : Block) : statusWord b = BitVec.ofNat 32 (b.busy.toNat + 2 * b.done.toNat +
    4 * b.err.toNat + 8 * b.busyWr.toNat + 16 * (errBits b.errcode).toNat) := by
  unfold statusWord
  generalize b.busy = busy, b.done = done, b.err = err, b.busyWr = busyWr, b.errcode = errcode
  revert busy done err busyWr
  cases errcode <;> decide

/-- KEY_LEN is OVF at bit 31 beside LEN (10_state.md R32). -/
theorem keyLenWord_eq (b : Block) :
    keyLenWord b = (if b.keyOvf then 0x80000000#32 else 0#32) ||| BitVec.ofNat 32 b.key.length := by
  unfold keyLenWord
  cases b.keyOvf <;> rfl

/-- Settles O1: a read answers the read function, whose STATUS and KEY_LEN are the words R26 and R32 describe. -/
theorem registerReadsReturnReg : Obligations.RegisterReadsReturnReg := by
  intro s
  have read (r : Reg) : exec (readInstr r) s = .next { s with resp := some (.okayRead (regRead r s.st)) } :=
    exec_readInstr r s
  refine ⟨read .id, read .config, read .cmd, ?_, read .code, read .snum, read .offset, read .keyClr, read .keyData, ?_,
    read .counterLo, read .counterHi, read .t0Lo, read .t0Hi, read .stepLo, read .stepHi, read .timeSampleLo,
    read .timeSampleHi, read .digestIn0, read .digestIn1, read .digestIn2, read .digestIn3, read .digestIn4⟩
  · rw [← statusWord_eq_sum]
    exact read .status
  · rw [← keyLenWord_eq]
    exact read .keyLen

/-! ### Register writes when IDLE -/

/-- A register write when IDLE: its effect on the block, and OKAY. -/
theorem hostWrite_idle {f : Block → Block} {s : State} (h : s.st.busy = false) :
    hostWrite f s = .next { s with st := f s.st, resp := some .okayWrite } :=
  hostAccess_idle h

/-- Settles O3: a write to a read-only register is the identity on the block. -/
theorem readOnlyRegistersIgnoreWrites : Obligations.ReadOnlyRegistersIgnoreWrites := by
  intro s w hidle
  have ignored : hostWrite id s = .next { s with resp := some .okayWrite } := hostWrite_idle hidle
  exact ⟨ignored, ignored, ignored, ignored, ignored, ignored, ignored, ignored⟩

/-- Settles O4, by the concatenations `setLow` and `setHigh` compute. -/
theorem configAndHalfWritesReplaceTheirField : Obligations.ConfigAndHalfWritesReplaceTheirField := by
  intro s w hidle
  have low4 : w.extractLsb' 0 4 = w.setWidth 4 := by simp [BitVec.setWidth_eq_extractLsb']
  simp only [low4, ← setLow_eq, ← setHigh_eq]
  exact ⟨hostWrite_idle hidle, hostWrite_idle hidle, hostWrite_idle hidle, hostWrite_idle hidle, hostWrite_idle hidle,
    hostWrite_idle hidle, hostWrite_idle hidle⟩

/-- Settles O7, by the bytes `setDigestWord` replaces. -/
theorem digestWordWriteSetsItsFourBytes : Obligations.DigestWordWriteSetsItsFourBytes := by
  intro s w hidle set
  have hset (k : Fin 5) : set k.val = setDigestWord s.st.digestIn k w := (setDigestWord_eq _ k w).symm
  have write (k : Fin 5) : hostWrite (fun b => { b with digestIn := setDigestWord b.digestIn k w }) s =
      .next { s with st := { s.st with digestIn := set k.val }, resp := some .okayWrite } := by
    rw [hset, hostWrite_idle hidle]
  exact ⟨write 0, write 1, write 2, write 3, write 4⟩

/-- Settles O5: KEY_CLR is `clearKey`, and the buffer of an empty key is all zeros. -/
theorem keyClearZeroisesTheKeyBuffer : Obligations.KeyClearZeroisesTheKeyBuffer := fun s _ =>
  ⟨fun hidle => hostWrite_idle hidle, rfl, rfl, exec_readInstr .keyClr s⟩

/-- Settles O6, by the two cases of `appendKeyByte`. -/
theorem keyDataAppendsOrDrops : Obligations.KeyDataAppendsOrDrops := by
  intro s w hidle
  have write : exec (.wrKeyData w) s =
      .next { s with st := appendKeyByte s.keyCap (w.setWidth 8) s.st, resp := some .okayWrite } := hostWrite_idle hidle
  have low8 : w.extractLsb' 0 8 = w.setWidth 8 := by simp [BitVec.setWidth_eq_extractLsb']
  refine ⟨fun hroom => ?_, fun hfull => ?_, exec_readInstr .keyData s⟩
  · rw [write, appendKeyByte_of_lt hroom, low8]
  · rw [write, appendKeyByte_of_ge hfull]

end Sys2Proof.Machine
end

section
/-! What a write makes of an idle block, said once for the sequencer's transitions and for the invariant. -/

namespace Sys2Proof.Machine

/-- `b'` is `b` but for the configuration registers: DIGITS, the counter, T0, STEP and DIGEST_IN. -/
def ConfigChange (b b' : Block) : Prop :=
  ∃ digits counter t0 step digestIn,
    b' = { b with digits := digits, counter := counter, t0 := t0, step := step, digestIn := digestIn }

/-- A latch record whose key, if it holds one, is the block's (10_state.md R36). -/
def LatchesKeyOf (b : Block) (l : Latch) : Prop :=
  ∀ cap, keyFits cap b.key b.keyOvf → latchFits cap l = true

/-- `b'` is `b` after an acceptance that failed a check: the clearing and a command error, with a time sample perhaps
taken in between (43_commands.md R181). -/
def Rejected (b b' : Block) : Prop :=
  ∃ e n, e ≠ .none ∧ b' = cmdError e { clearForAcceptance b with timeSample := n }

/-- `b'` is `b` after an acceptance that passed its checks: the clearing, the command's moving factor, and a full latch
(43_commands.md R181). -/
def Accepted (b b' : Block) : Prop :=
  ∃ l c n, LatchesKeyOf b l ∧ b' = enterBusy l { clearForAcceptance b with counter := c, timeSample := n }

theorem ConfigChange.busy {b b' : Block} : ConfigChange b b' → b'.busy = b.busy := by
  rintro ⟨_, _, _, _, _, rfl⟩
  rfl

theorem Rejected.busy {b b' : Block} : Rejected b b' → b'.busy = false := by
  rintro ⟨_, _, -, rfl⟩
  rfl

@[simp] theorem appendKeyByte_busy (cap : Nat) (k : Byte) (b : Block) : (appendKeyByte cap k b).busy = b.busy := by
  unfold appendKeyByte
  split <;> rfl

theorem latchesKeyOf_hmacJob (d : Digits) (c : Factor) (b : Block) :
    LatchesKeyOf b (.genCounter (hmacJob d c b)) ∧ LatchesKeyOf b (.genTime (hmacJob d c b)) :=
  ⟨fun _ h => decide_eq_true h, fun _ h => decide_eq_true h⟩

/-- The digits check and the command's own checks, as the state and the sample taken show them (43_commands.md R184,
R187, R190). -/
def PassesChecks (op : CmdOp) (b b' : Block) : Prop :=
  b.digits.toNat ≤ 9 ∧
    (op = .genCounter ∨ op = .truncate ∨ op = .genTime ∧ b.step ≠ 0 ∧ b'.t0.toNat ≤ b'.timeSample.toNat)

/-- Acceptance fails the digits check, or goes on to the command's own part. -/
theorem acceptChecked_outcome (own : Digits → State → State) (s : State) : Rejected s.st (acceptChecked own s).st ∨
    ∃ d, s.st.digits.toNat ≤ 9 ∧ acceptChecked own s = own d (s.onSt clearForAcceptance) := by
  rcases acceptChecked_cases own s with ⟨d, hd, h⟩ | ⟨-, h⟩
  · exact .inr ⟨d, by omega, h⟩
  · rw [h]
    exact .inl ⟨_, s.st.timeSample, by decide, rfl⟩

/-- GEN_COUNTER's acceptance fails the digits check or passes. -/
theorem acceptCounter_outcome (s : State) : Rejected s.st (acceptChecked acceptCounter s).st ∨
    Accepted s.st (acceptChecked acceptCounter s).st ∧
      PassesChecks .genCounter s.st (acceptChecked acceptCounter s).st := by
  rcases acceptChecked_outcome acceptCounter s with hrej | ⟨d, hdigits, h⟩
  · exact .inl hrej
  · rw [h]
    exact .inr ⟨⟨_, _, _, (latchesKeyOf_hmacJob d _ s.st).1, rfl⟩, hdigits, .inl rfl⟩

/-- TRUNCATE's acceptance fails the digits check or passes. -/
theorem acceptTruncate_outcome (s : State) : Rejected s.st (acceptChecked acceptTruncate s).st ∨
    Accepted s.st (acceptChecked acceptTruncate s).st ∧
      PassesChecks .truncate s.st (acceptChecked acceptTruncate s).st := by
  rcases acceptChecked_outcome acceptTruncate s with hrej | ⟨d, hdigits, h⟩
  · exact .inl hrej
  · rw [h]
    have hlatch : LatchesKeyOf s.st (.truncate d s.st.digestIn) := fun _ _ => rfl
    exact .inr ⟨⟨_, s.st.counter, s.st.timeSample, hlatch, rfl⟩, hdigits, .inr (.inl rfl)⟩

/-- GEN_TIME's acceptance fails the digits, the step or the epoch check, or passes. -/
theorem acceptTime_outcome (s : State) : Rejected s.st (acceptChecked acceptTime s).st ∨
    Accepted s.st (acceptChecked acceptTime s).st ∧
      PassesChecks .genTime s.st (acceptChecked acceptTime s).st := by
  rcases acceptChecked_outcome acceptTime s with hrej | ⟨d, hdigits, h⟩
  · exact .inl hrej
  · rw [h]
    rcases acceptTime_cases d (s.onSt clearForAcceptance) with ⟨-, h⟩ | ⟨hstep, h⟩ <;> rw [h]
    · exact .inl ⟨_, s.st.timeSample, by decide, rfl⟩
    · simp only [onSt_st, takeSample_st]
      rcases acceptTimeAt_cases (sampleValue (s.onSt clearForAcceptance)) d (clearForAcceptance s.st) with
        ⟨-, h⟩ | ⟨hepoch, h⟩ <;> rw [h]
      · exact .inl ⟨_, _, by decide, rfl⟩
      · refine .inr ⟨⟨_, s.st.counter, _, (latchesKeyOf_hmacJob d _ s.st).2, rfl⟩, hdigits, .inr (.inr ?_)⟩
        exact ⟨rfl, hstep, hepoch⟩

/-- The acceptance of a word is NOP's, or fails a check, or passes the checks of its command. -/
theorem acceptWord_outcome (w : Word) (s : State) : acceptWord w s = s ∨ Rejected s.st (acceptWord w s).st ∨
    Accepted s.st (acceptWord w s).st ∧ PassesChecks (decodeCmd w) s.st (acceptWord w s).st := by
  rcases acceptWord_cases w s with ⟨-, h⟩ | ⟨-, h⟩ | ⟨hw, h⟩ | ⟨hw, h⟩ | ⟨hw, h⟩ <;> rw [h]
  · exact .inl rfl
  · exact .inr (.inl ⟨_, s.st.timeSample, by decide, rfl⟩)
  · exact .inr (hw ▸ acceptCounter_outcome s)
  · exact .inr (hw ▸ acceptTime_outcome s)
  · exact .inr (hw ▸ acceptTruncate_outcome s)

/-- What an instruction makes of an idle block: `b'` is the block after it in state `s`. -/
inductive IdleEffect (i : Instr) (s : State) (b' : Block) : Prop
  | config (h : ConfigChange s.st b')
  | keyClear (h : b' = clearKey s.st)
  | keyByte (k : Byte) (h : b' = appendKeyByte s.keyCap k s.st)
  | command (w : Word) (hi : i = writeCmdInstr w ∨ i = .wrCmd w) (h : b' = (acceptWord w s).st)

/-- Every instruction when IDLE has one of the four effects. -/
theorem exec_idleEffect {i : Instr} {s t : State} (hidle : s.st.busy = false) (h : exec i s = .next t) :
    IdleEffect i s t.st := by
  rcases exec_read_or_access i with ⟨-, r, -, hr⟩ | ⟨hi, -⟩
  · rw [hr] at h
    cases h
    exact .config ⟨_, _, _, _, _, rfl⟩
  · have write {f : State → State} (hf : exec i s = hostAccess f s) : t.st = (f s).st := by
      rw [hf, hostAccess_idle hidle] at h
      cases h
      rfl
    cases i with
    | nop => exact .command 0 (.inl rfl) (write rfl)
    | genCounter => exact .command 1 (.inl rfl) (write rfl)
    | genTime => exact .command 2 (.inl rfl) (write rfl)
    | truncate => exact .command 3 (.inl rfl) (write rfl)
    | wrCmd w => exact .command w (.inr rfl) (write rfl)
    | wrKeyClr w => exact .keyClear (write rfl)
    | wrKeyData w => exact .keyByte _ (write rfl)
    | rdId | rdConfig | rdCmd | rdStatus | rdCode | rdSnum | rdOffset | rdKeyClr | rdKeyData | rdKeyLen
    | rdCounterLo | rdCounterHi | rdT0Lo | rdT0Hi | rdStepLo | rdStepHi | rdTimeSampleLo | rdTimeSampleHi
    | rdDigestIn0 | rdDigestIn1 | rdDigestIn2 | rdDigestIn3 | rdDigestIn4 => cases hi
    | _ => exact .config ⟨_, _, _, _, _, write rfl⟩

/-! ### The sequencer -/

/-- When IDLE the completion has nothing to complete (43_commands.md R195). -/
theorem complete_idle {s : State} (hidle : s.st.busy = false) : complete s = s := by
  simp [complete, (busy_eq_false_iff s.st).mp hidle]

/-- An instruction that takes an idle block to BUSY is a command word's, and the command's checks pass. -/
theorem exec_idle_to_busy {i : Instr} {s t : State} (hidle : s.st.busy = false) (h : exec i s = .next t)
    (hbusy : t.st.busy = true) :
    ∃ w, (i = writeCmdInstr w ∨ i = .wrCmd w) ∧ PassesChecks (decodeCmd w) s.st t.st := by
  cases exec_idleEffect hidle h with
  | config hc => simp [hc.busy, hidle] at hbusy
  | keyClear hk => simp [hk, hidle] at hbusy
  | keyByte k hk => simp [hk, hidle] at hbusy
  | command w hi hw =>
    rcases acceptWord_outcome w s with hnop | hrej | ⟨-, hpass⟩
    · simp [hw, hnop, hidle] at hbusy
    · simp [hw, hrej.busy] at hbusy
    · exact ⟨w, hi, hw ▸ hpass⟩

/-- The decoder answers the row WR.CMD with an illegal word only (30_encoding.md R94). -/
theorem decodeCmd_of_decode_wrCmd {tr : Transaction} {w : Word} (h : decode tr = .ok (.wrCmd w)) :
    decodeCmd w = .illegal := by
  obtain ⟨r, -, hr⟩ := decode_ok_iff.mp h
  split at hr
  · cases r <;> simp only [writeInstr, reduceCtorEq, writeCmdInstr] at hr
    split at hr <;> cases hr
    assumption
  · cases r <;> cases hr

/-- A command whose checks can pass decodes to the command's own instruction, not to WR.CMD. -/
theorem instr_of_passesChecks {tr : Transaction} {i : Instr} {w : Word} {b b' : Block} (hd : decode tr = .ok i)
    (hi : i = writeCmdInstr w ∨ i = .wrCmd w) (h : PassesChecks (decodeCmd w) b b') :
    i = .genCounter ∨ i = .truncate ∨ i = .genTime ∧ b.step ≠ 0 ∧ b'.t0.toNat ≤ b'.timeSample.toNat := by
  obtain ⟨-, hop⟩ := h
  rcases hi with rfl | rfl
  · rcases hop with hop | hop | ⟨hop, htime⟩
    · exact .inl (by simp [writeCmdInstr, hop])
    · exact .inr (.inl (by simp [writeCmdInstr, hop]))
    · exact .inr (.inr ⟨by simp [writeCmdInstr, hop], htime⟩)
  · simp [decodeCmd_of_decode_wrCmd hd] at hop

theorem encode_readInstr_write (r : Reg) : (encode (readInstr r)).write = false := by cases r <;> rfl

theorem encode_writeCmdInstr_write (w : Word) : (encode (writeCmdInstr w)).write = true := by
  unfold writeCmdInstr
  split <;> rfl

/-- The transaction of a poll decodes to a read, which is no command's instruction. -/
theorem decode_readAt_not_command {off : BitVec 8} {i : Instr} {w : Word} (hd : decode (readAt off) = .ok i)
    (hi : i = writeCmdInstr w ∨ i = .wrCmd w) : False := by
  obtain ⟨r, -, hr⟩ := decode_ok_iff.mp hd
  have hread : (encode i).write = false := hr ▸ encode_readInstr_write r
  rcases hi with rfl | rfl
  · simp [encode_writeCmdInstr_write] at hread
  · cases hread

/-- A step from IDLE to BUSY is the acceptance of a command whose checks pass (10_state.md R45). -/
theorem step_idle_to_busy {s t : State} (h : step s = .next t) (hidle : s.st.busy = false) (hbusy : t.st.busy = true) :
    ∃ tr rest i, s.program = .bus tr :: rest ∧ decode tr = .ok i ∧ s.st.digits.toNat ≤ 9 ∧
      (i = .genCounter ∨ i = .truncate ∨
        i = .genTime ∧ s.st.step ≠ 0 ∧ t.st.t0.toNat ≤ t.st.timeSample.toNat) := by
  rcases step_cases h with ⟨levels, -, rfl⟩ | ⟨hs, -⟩ | ⟨-, -, hst⟩ | ⟨u, v, tr, i, hv, hprog, -, hf, hd, hx⟩ |
    ⟨v, tr, e, hv, -, rfl⟩
  · cases hbusy
  · simp [hidle] at hs
  · simp [hst.st, hidle] at hbusy
  · rw [← hv.st] at hidle ⊢
    obtain ⟨w, hi, hpass⟩ := exec_idle_to_busy hidle hx hbusy
    rcases (fetch_some hf).2 with ⟨rest, hp, -⟩ | ⟨off, -, -, -, -, rfl, -⟩
    · exact ⟨tr, rest, i, hprog ▸ hp, hd, hpass.1, instr_of_passesChecks hd hi hpass⟩
    · exact (decode_readAt_not_command hd hi).elim
  · simp [hv.st, hidle] at hbusy

/-- A step from BUSY to IDLE is the reset or the completion (10_state.md R45). -/
theorem step_busy_to_idle {s t : State} (h : step s = .next t) (hbusy : s.st.busy = true) (hidle : t.st.busy = false) :
    (∃ levels, s.resetIn = true :: levels) ∨ t.st = (complete s).st := by
  rcases step_cases h with ⟨levels, hr, -⟩ | ⟨-, u, hu, rfl⟩ | ⟨hs, -⟩ | ⟨u, v, tr, i, hv, -, -, -, -, hx⟩ |
    ⟨v, tr, e, hv, -, rfl⟩
  · exact .inl ⟨levels, hr⟩
  · exact .inr (complete_st_congr hu.st)
  · simp [hbusy] at hs
  · rw [← hv.st] at hbusy
    have kept : t.st.busy = v.st.busy := by obtain ⟨r, rfl | rfl⟩ := exec_busy hbusy hx <;> rfl
    simp [kept, hbusy] at hidle
  · simp [hv.st, hbusy] at hidle

/-- Settles O51, by the cases of a step in each direction. -/
theorem sequencerTransitions : Obligations.SequencerTransitions := fun s _ =>
  ⟨(busy_eq_true_iff s.st).trans Option.ne_none_iff_exists'.symm, complete_idle,
    fun h => ⟨step_idle_to_busy h, step_busy_to_idle h⟩⟩

/-! ### The invariant -/

/-- The invariant's part about the block, for a buffer of `cap` bytes. -/
def BlockInv (cap : Nat) (b : Block) : Prop :=
  keyFits cap b.key b.keyOvf ∧ (∀ l ∈ b.latch, latchFits cap l = true) ∧ statusOk b ∧ resultsOk b

theorem machineInv_iff {s : State} : MachineInv s ↔ Config.keyCapOk s.keyCap ∧ BlockInv s.keyCap s.st := Iff.rfl

/-- Cleared results meet the invariant whatever the flags are. -/
theorem resultsOk_of_cleared {b : Block} (hcode : b.code = 0) (hsnum : b.snum = 0) (hoffset : b.offset = 0) :
    resultsOk b :=
  ⟨fun _ => ⟨hcode, hsnum, hoffset⟩, by simp [hsnum], 0, by simp [hcode, hsnum]⟩

/-- The modulus table holds the powers of ten (42_truncation_reduction.md R165). -/
theorem modulus_toNat (d : Digits) : (modulus d).toNat = 10 ^ d.val := by
  revert d
  decide

/-- CODE is SNUM reduced by the power of ten of the digit count (42_truncation_reduction.md R166). -/
theorem truncateReduce_code (hs : Digest) (d : Digits) :
    (truncateReduce hs d).code.toNat = (truncateReduce hs d).snum.toNat % 10 ^ d.val := by
  simp [truncateReduce, reduce, BitVec.toNat_umod, modulus_toNat]

/-- The mask keeps SNUM below 2^31 (42_truncation_reduction.md R168). -/
theorem truncateReduce_snum_lt (hs : Digest) (d : Digits) : (truncateReduce hs d).snum.toNat < 2 ^ 31 := by
  have masked (b0 b1 b2 b3 : Byte) : (be32dec (b0 &&& 0x7F#8) b1 b2 b3).toNat < 2 ^ 31 := by
    have h0 : (b0 &&& 0x7F#8).toNat ≤ 0x7F := by
      rw [BitVec.toNat_and]
      exact Nat.and_le_right
    have h1 := b1.isLt
    have h2 := b2.isLt
    have h3 := b3.isLt
    rw [be32dec_toNat]
    omega
  exact masked _ _ _ _

/-- After reset the block meets the invariant, whatever KEY_CAP is. -/
theorem blockInv_reset (cap : Nat) : BlockInv cap Block.reset :=
  ⟨⟨Nat.zero_le _, nofun⟩, nofun, ⟨nofun, by simp [Block.reset], nofun⟩, resultsOk_of_cleared rfl rfl rfl⟩

section
variable {cap : Nat} {b b' : Block}

/-- The ignored write while BUSY keeps the invariant, which does not read BUSY_WR. -/
theorem BlockInv.noteBusyWrite (h : BlockInv cap b) : BlockInv cap (noteBusyWrite b) := h

/-- The invariant does not read the configuration registers. -/
theorem BlockInv.configChange (h : BlockInv cap b) : ConfigChange b b' → BlockInv cap b' := by
  rintro ⟨_, _, _, _, _, rfl⟩
  exact h

theorem BlockInv.clearKey (h : BlockInv cap b) : BlockInv cap (clearKey b) :=
  ⟨⟨Nat.zero_le _, nofun⟩, h.2⟩

/-- KEY_DATA appends only where there is room, and sets OVF only on a full buffer (10_state.md R31). -/
theorem BlockInv.appendKeyByte (k : Byte) (h : BlockInv cap b) : BlockInv cap (appendKeyByte cap k b) := by
  obtain ⟨⟨hlen, hovf⟩, hrest⟩ := h
  rcases Nat.lt_or_ge b.key.length cap with hroom | hfull
  · rw [appendKeyByte_of_lt hroom]
    refine ⟨⟨?_, fun ho => ?_⟩, hrest⟩
    · simpa using hroom
    · have := hovf ho
      omega
  · rw [appendKeyByte_of_ge hfull]
    exact ⟨⟨hlen, fun _ => by simp only; omega⟩, hrest⟩

/-- A rejection leaves the results cleared and reports an error in all three flags (60_exceptions.md R212). -/
theorem BlockInv.rejected (h : BlockInv cap b) : Rejected b b' → BlockInv cap b' := by
  rintro ⟨e, n, he, rfl⟩
  exact ⟨h.1, nofun, ⟨nofun, by simpa using he, fun _ => rfl⟩, resultsOk_of_cleared rfl rfl rfl⟩

/-- A passing acceptance clears flags and results, and latches a key that fits because the block's does. -/
theorem BlockInv.accepted (h : BlockInv cap b) : Accepted b b' → BlockInv cap b' := by
  rintro ⟨l, c, n, hl, rfl⟩
  refine ⟨h.1, fun l' hl' => ?_, ⟨fun _ => ⟨rfl, rfl⟩, by simp, nofun⟩, resultsOk_of_cleared rfl rfl rfl⟩
  cases hl'
  exact hl cap h.1

/-- HMAC_INIT at a completion: the results of a busy block are 0, and stay so (41_hmac_sha1.md R133). -/
theorem BlockInv.cmdError_busy (h : BlockInv cap b) (hbusy : b.busy = true) {e : ErrCode} (he : e ≠ .none) :
    BlockInv cap (cmdError e b) := by
  obtain ⟨hkey, -, -, hzero, -⟩ := h
  obtain ⟨hcode, hsnum, hoffset⟩ := hzero (by simp [hbusy])
  exact ⟨hkey, nofun, ⟨nofun, by simpa using he, fun _ => rfl⟩, resultsOk_of_cleared hcode hsnum hoffset⟩

/-- A successful completion makes the results ready, and the datapath bounds them. -/
theorem BlockInv.finish (h : BlockInv cap b) (d : Digits) (hs : Digest) : BlockInv cap (finish d hs b) :=
  ⟨h.1, nofun, ⟨nofun, by simp, nofun⟩,
    fun hnot => (hnot ⟨rfl, rfl, rfl⟩).elim, truncateReduce_snum_lt hs d, d, truncateReduce_code hs d⟩

/-- A completion is HMAC_INIT or a success. -/
theorem completeLatch_cases (l : Latch) (b : Block) :
    completeLatch l b = cmdError .hmacInit b ∨ ∃ d hs, completeLatch l b = finish d hs b := by
  have job (j : HmacJob) : completeJob j b = cmdError .hmacInit b ∨ ∃ d hs, completeJob j b = finish d hs b := by
    unfold completeJob
    split
    · exact .inl rfl
    · exact .inr ⟨_, _, rfl⟩
  cases l with
  | genCounter j => exact job j
  | genTime j => exact job j
  | truncate d hs => exact .inr ⟨d, hs, rfl⟩

theorem BlockInv.completeLatch (h : BlockInv cap b) (hbusy : b.busy = true) (l : Latch) :
    BlockInv cap (completeLatch l b) := by
  rcases completeLatch_cases l b with hc | ⟨d, hs, hc⟩ <;> rw [hc]
  · exact h.cmdError_busy hbusy (by decide)
  · exact h.finish d hs

end

theorem BlockInv.complete {s : State} {cap : Nat} (h : BlockInv cap s.st) : BlockInv cap (complete s).st := by
  cases hl : s.st.latch with
  | none => rwa [complete_idle ((busy_eq_false_iff _).mpr hl)]
  | some l =>
    rw [complete_of_latch hl]
    exact h.completeLatch ((busy_eq_true_iff _).mpr ⟨l, hl⟩) l

/-- Every instruction keeps the block's invariant: by its idle effects, or as an ignored write. -/
theorem exec_blockInv {i : Instr} {s t : State} (h : BlockInv s.keyCap s.st) (hx : exec i s = .next t) :
    BlockInv s.keyCap t.st := by
  cases hb : s.st.busy with
  | true =>
    obtain ⟨r, rfl | rfl⟩ := exec_busy hb hx
    · exact h
    · exact h.noteBusyWrite
  | false =>
    cases exec_idleEffect hb hx with
    | config hc => exact h.configChange hc
    | keyClear hk => exact hk ▸ h.clearKey
    | keyByte k hk => exact hk ▸ h.appendKeyByte k
    | command w _ hw =>
      rw [hw]
      rcases acceptWord_outcome w s with hnop | hrej | ⟨hacc, -⟩
      · rwa [hnop]
      · exact h.rejected hrej
      · exact h.accepted hacc

/-- Every step keeps the block's invariant. -/
theorem step_blockInv {s t : State} (h : BlockInv s.keyCap s.st) (hstep : step s = .next t) :
    BlockInv s.keyCap t.st := by
  rcases step_cases hstep with ⟨levels, -, rfl⟩ | ⟨-, u, hu, rfl⟩ | ⟨-, -, hst⟩ | ⟨u, v, tr, i, hv, -, -, -, -, hx⟩ |
    ⟨v, tr, e, hv, -, rfl⟩
  · exact blockInv_reset s.keyCap
  · exact .complete (hu.st ▸ h)
  · exact hst.st ▸ h
  · rw [← hv.keyCap, ← hv.st] at h
    exact hv.keyCap ▸ exec_blockInv h hx
  · rwa [busError_st, hv.st]

/-- Settles O37: KEY_CAP never changes, and every step keeps the block's part of the invariant. -/
theorem everyStepKeepsTheInvariant : Obligations.EveryStepKeepsTheInvariant := by
  intro s t hinv hstep
  obtain ⟨hcap, hblock⟩ := machineInv_iff.mp hinv
  rw [machineInv_iff, step_keyCap hstep]
  exact ⟨hcap, step_blockInv hblock hstep⟩

end Sys2Proof.Machine
end

section
/-! The statements of 20_memory.md: writes while BUSY, refused accesses, what a step runs, which steps change the block
or the counter, and which accesses are idempotent. -/

namespace Sys2Proof.Machine

/-! ### Reads and writes while BUSY -/

/-- A read changes the bus answer alone (20_memory.md R67). -/
theorem exec_read {i : Instr} (hi : (encode i).write = false) (s : State) :
    ∃ r, exec i s = .next { s with resp := some (.okayRead (regRead r s.st)) } := by
  rcases exec_read_or_access i with ⟨-, r, -, h⟩ | ⟨hw, -⟩
  · exact ⟨r, h s⟩
  · simp [hi] at hw

/-- A write while BUSY sets BUSY_WR and gets OKAY (20_memory.md R66). -/
theorem exec_write_busy {i : Instr} {s : State} (hi : (encode i).write = true) (hbusy : s.st.busy = true) :
    exec i s = .next { s with st := { s.st with busyWr := true }, resp := some .okayWrite } := by
  obtain ⟨f, hf, -⟩ := exec_write_blockChange hi s
  rw [hf, hostAccess_busy hbusy]
  rfl

/-- Settles O2: a write is the ignored one, and a read changes the bus answer alone. -/
theorem writeWhileBusyOnlySetsBusyWr : Obligations.WriteWhileBusyOnlySetsBusyWr := fun _ s hbusy =>
  ⟨fun hi => exec_write_busy hi hbusy, fun hi => (exec_read hi s).imp' _ fun _ => id⟩

/-! ### The step that runs the next bus statement -/

section
variable {s : State} {t : Transaction} {rest : List HostStmt} {levels : List Bool}

/-- When IDLE a step runs the next bus statement's transaction. -/
theorem step_bus_idle (hp : s.program = .bus t :: rest) (hr : noReset s levels) (hidle : s.st.busy = false) :
    step s = runTransaction t { s with program := rest, resetIn := levels, wait := none } := by
  rw [step_of_noReset hr, agentStep_idle (s := { s with resetIn := levels }) hidle]
  exact hostStep_bus hp

/-- A drawn latency is kept. -/
theorem drawLatency_drawn {n : Nat} (hw : s.wait = some n) : drawLatency s = s := by
  simp [drawLatency, hw]

/-- A latency not drawn yet is the next scripted one. -/
theorem drawLatency_scripted {n : Nat} {ns : List Nat} (hw : s.wait = none) (hl : s.latencyIn = n :: ns) :
    drawLatency s = { s with wait := some n, latencyIn := ns } := by
  simp [drawLatency, hw, hl]

/-- With the script exhausted it is the free value (43_commands.md R195). -/
theorem drawLatency_free (hw : s.wait = none) (hl : s.latencyIn = []) :
    drawLatency s = { s with wait := some (Config.latency s.draws), draws := s.draws + 1 } := by
  simp [drawLatency, hw, hl]

/-- A latency is drawn once: a busy agent step from the state with the latency drawn is the same. -/
theorem agentStep_drawLatency (hbusy : s.st.busy = true) : agentStep (drawLatency s) = agentStep s := by
  obtain ⟨n, hn⟩ := drawLatency_wait s
  simp [agentStep, hbusy, drawLatency_drawn hn]

/-- While BUSY with a latency left once it is drawn, an agent step runs the next bus statement's transaction. -/
theorem agentStep_bus_busy {n : Nat} (hp : s.program = .bus t :: rest) (hbusy : s.st.busy = true)
    (hw : (drawLatency s).wait = some (n + 1)) :
    agentStep s = runTransaction t { drawLatency s with program := rest, wait := some n } := by
  rw [← agentStep_drawLatency hbusy, agentStep_busy_wait (by simpa) hw (by simp [hp])]
  exact hostStep_bus ((drawLatency_program s).trans hp)

/-- While BUSY with a latency left, already drawn or drawn now, a step runs the next bus statement's transaction. -/
theorem step_bus_busy {n : Nat} {d : State} (hp : s.program = .bus t :: rest) (hr : noReset s levels)
    (hbusy : s.st.busy = true) (hdraw : drawLatency { s with resetIn := levels } = d) (hw : d.wait = some (n + 1)) :
    step s = runTransaction t { d with program := rest, wait := some n } := by
  subst hdraw
  rw [step_of_noReset hr]
  exact agentStep_bus_busy hp hbusy hw

/-- While BUSY with the latency drawn as 0 a step is the completion. -/
theorem step_busy_complete {d : State} (hr : noReset s levels) (hbusy : s.st.busy = true)
    (hdraw : drawLatency { s with resetIn := levels } = d) (hw : d.wait = some 0) : step s = .next (complete d) := by
  subst hdraw
  rw [step_of_noReset hr]
  exact agentStep_busy_complete hbusy (.inl hw)

end

/-- The completion of a busy state forgets the latency. -/
theorem complete_forgets_wait {s : State} (hbusy : s.st.busy = true) (w : Option Nat) :
    complete { s with wait := w } = complete s := by
  obtain ⟨l, hl⟩ := (busy_eq_true_iff s.st).mp hbusy
  rw [complete_of_latch hl]
  exact complete_of_latch hl

/-- Settles O28: each case is the step on a bus statement, with the latency drawn as the case says. -/
theorem stepRunsTheDecodedInstruction : Obligations.StepRunsTheDecodedInstruction := by
  intro s t rest levels i hp hr hd
  refine ⟨fun hidle => ?_, fun n hbusy hw => ?_, fun n ns hbusy hw hl => ?_, fun hbusy hw hl => ?_⟩
  · rw [step_bus_idle hp hr hidle, runTransaction_ok hd]
  · rw [step_bus_busy hp hr hbusy (drawLatency_drawn hw) hw, runTransaction_ok hd]
  · rw [step_bus_busy hp hr hbusy (drawLatency_scripted hw hl) rfl, runTransaction_ok hd]
  · have hdraw : drawLatency { s with resetIn := levels } =
        { s with resetIn := levels, wait := some (Config.latency s.draws), draws := s.draws + 1 } :=
      drawLatency_free hw hl
    split <;> rename_i hk <;> rw [hk] at hdraw
    · rw [step_busy_complete hr hbusy hdraw rfl]
      exact congrArg _ (complete_forgets_wait (s := { s with resetIn := levels, draws := s.draws + 1 }) hbusy _)
    · rw [step_bus_busy hp hr hbusy hdraw rfl, runTransaction_ok hd]

/-! ### Refused accesses -/

/-- A refused access is refused by the first check it fails (60_exceptions.md R215 (a)). -/
theorem decode_refused {t : Transaction} {e : BusError}
    (h : t.size ≠ .four ∧ e = .narrow ∨ t.size = .four ∧ t.off.toNat % 4 ≠ 0 ∧ e = .misaligned ∨
      t.size = .four ∧ t.off.toNat % 4 = 0 ∧ 0x5C ≤ t.off.toNat ∧ e = .unmapped) : decode t = .error e := by
  rw [decode_error_iff]
  rcases h with ⟨hz, rfl⟩ | ⟨hz, hoff, rfl⟩ | ⟨hz, hoff, hlast, rfl⟩
  · exact checkAddress_narrow hz
  · rw [hz, checkAddress_misaligned hoff]
  · rw [hz, checkAddress_unmapped hoff hlast]

/-- Settles O30: a refused transaction is `busError`, alone or as a step. -/
theorem slverrChangesNothingInTheBlock : Obligations.SlverrChangesNothingInTheBlock := by
  refine ⟨fun t s e h => ?_, rfl⟩
  have refused : ∀ u, runTransaction t u = .next (busError e u) := runTransaction_error (decode_refused h)
  refine ⟨refused s, fun rest levels hp hr hidle => ?_, fun rest levels n hp hr hbusy hw => ?_⟩
  · rw [step_bus_idle hp hr hidle, refused]
    rfl
  · rw [step_bus_busy hp hr hbusy (drawLatency_drawn hw) hw, refused]
    rfl

/-! ### What changes the block, and what changes the counter -/

/-- Settles O42, by the cases of a step. -/
theorem busyBlockChangesOnlyBusyWrUntilItCompletes : Obligations.BusyBlockChangesOnlyBusyWrUntilItCompletes := by
  intro s t hbusy h
  rcases step_cases h with ⟨levels, hr, rfl⟩ | ⟨-, u, hu, rfl⟩ | ⟨hidle, -⟩ | ⟨u, v, tr, i, hv, -, -, -, -, hx⟩ |
    ⟨v, tr, e, hv, -, rfl⟩
  · exact .inl ⟨⟨levels, hr⟩, rfl⟩
  · exact .inr (.inl (complete_st_congr hu.st))
  · simp [hbusy] at hidle
  · rw [← hv.st] at hbusy ⊢
    obtain ⟨r, rfl | rfl⟩ := exec_busy hbusy hx
    · exact .inr (.inr (.inl rfl))
    · exact .inr (.inr (.inr rfl))
  · exact .inr (.inr (.inl hv.st))

@[simp] theorem completeLatch_counter (l : Latch) (b : Block) : (completeLatch l b).counter = b.counter := by
  rcases completeLatch_cases l b with h | ⟨d, hs, h⟩ <;> rw [h] <;> rfl

@[simp] theorem completeLatch_digits (l : Latch) (b : Block) : (completeLatch l b).digits = b.digits := by
  rcases completeLatch_cases l b with h | ⟨d, hs, h⟩ <;> rw [h] <;> rfl

@[simp] theorem complete_counter (s : State) : (complete s).st.counter = s.st.counter := by
  unfold complete
  split <;> simp

@[simp] theorem complete_digits (s : State) : (complete s).st.digits = s.st.digits := by
  unfold complete
  split <;> simp

@[simp] theorem appendKeyByte_counter (cap : Nat) (k : Byte) (b : Block) :
    (appendKeyByte cap k b).counter = b.counter := by
  unfold appendKeyByte
  split <;> rfl

/-- Acceptance keeps the counter where the command's own part does: the clearing and INVALID_DIGITS leave it alone. -/
theorem acceptChecked_counter {own : Digits → State → State} (hown : ∀ d u, (own d u).st.counter = u.st.counter)
    (s : State) : (acceptChecked own s).st.counter = s.st.counter := by
  rcases acceptChecked_cases own s with ⟨d, -, h⟩ | ⟨-, h⟩ <;> rw [h]
  · exact hown d _
  · rfl

theorem acceptTime_counter (d : Digits) (s : State) : (acceptTime d s).st.counter = s.st.counter := by
  rcases acceptTime_cases d s with ⟨-, h⟩ | ⟨-, h⟩ <;> rw [h]
  · rfl
  · rw [onSt_st, takeSample_st]
    rcases acceptTimeAt_cases (sampleValue s) d s.st with ⟨-, h⟩ | ⟨-, h⟩ <;> rw [h] <;> rfl

/-- Only GEN_COUNTER's acceptance with DIGITS in 0..9 changes the counter, which it advances (40_byte_source.md R112). -/
theorem acceptWord_counter (w : Word) (s : State) : (acceptWord w s).st.counter = s.st.counter ∨
    decodeCmd w = .genCounter ∧ s.st.digits.toNat ≤ 9 ∧ (acceptWord w s).st.counter = s.st.counter + 1 := by
  rcases acceptWord_cases w s with ⟨-, h⟩ | ⟨-, h⟩ | ⟨hw, h⟩ | ⟨-, h⟩ | ⟨-, h⟩ <;> rw [h]
  · exact .inl rfl
  · exact .inl rfl
  · rcases acceptChecked_cases acceptCounter s with ⟨d, hd, h⟩ | ⟨-, h⟩ <;> rw [h]
    · exact .inr ⟨hw, by omega, rfl⟩
    · exact .inl rfl
  · exact .inl (acceptChecked_counter acceptTime_counter s)
  · exact .inl (acceptChecked_counter (own := acceptTruncate) (fun _ _ => rfl) s)

/-- The event on the counter an instruction is: a write of one of its halves, or the acceptance of a word that decodes
to GEN_COUNTER, with DIGITS in 0..9. -/
inductive CounterEvent (i : Instr) (s t : State) : Prop
  | writeLo (w : Word) (hi : i = .wrCounterLo w)
  | writeHi (w : Word) (hi : i = .wrCounterHi w)
  | advance (w : Word) (hi : i = writeCmdInstr w ∨ i = .wrCmd w) (hw : decodeCmd w = .genCounter)
      (hdigits : s.st.digits.toNat ≤ 9) (h : t.st.counter = s.st.counter + 1)

/-- An instruction that changes the counter is one of the three events, on an idle block (20_memory.md R79). -/
theorem exec_changes_counter {i : Instr} {s t : State} (h : exec i s = .next t) (hne : t.st.counter ≠ s.st.counter) :
    s.st.busy = false ∧ (encode i).write = true ∧ CounterEvent i s t := by
  have hidle : s.st.busy = false := by
    by_contra hbusy
    obtain ⟨r, rfl | rfl⟩ := exec_busy (by simpa using hbusy) h <;> exact hne rfl
  have hi : (encode i).write = true := by
    by_contra hread
    obtain ⟨r, hr⟩ := exec_read (by simpa using hread) s
    rw [hr] at h
    cases h
    exact hne rfl
  refine ⟨hidle, hi, ?_⟩
  have write {f : State → State} (hf : exec i s = hostAccess f s) : t.st = (f s).st := by
    rw [hf, hostAccess_idle hidle] at h
    cases h
    rfl
  have command (w : Word) (hw : i = writeCmdInstr w ∨ i = .wrCmd w) (hf : exec i s = hostAccess (acceptWord w) s) :
      CounterEvent i s t := by
    rw [write hf] at hne
    obtain ⟨hgen, hdigits, hc⟩ := (acceptWord_counter w s).resolve_left hne
    exact .advance w hw hgen hdigits (write hf ▸ hc)
  cases i with
  | nop => exact command 0 (.inl rfl) rfl
  | genCounter => exact command 1 (.inl rfl) rfl
  | genTime => exact command 2 (.inl rfl) rfl
  | truncate => exact command 3 (.inl rfl) rfl
  | wrCmd w => exact command w (.inr rfl) rfl
  | wrCounterLo w => exact .writeLo w rfl
  | wrCounterHi w => exact .writeHi w rfl
  | wrKeyData w =>
    have hkey : t.st = appendKeyByte s.keyCap (w.setWidth 8) s.st := write rfl
    exact absurd (by rw [hkey, appendKeyByte_counter]) hne
  | rdId | rdConfig | rdCmd | rdStatus | rdCode | rdSnum | rdOffset | rdKeyClr | rdKeyData | rdKeyLen
  | rdCounterLo | rdCounterHi | rdT0Lo | rdT0Hi | rdStepLo | rdStepHi | rdTimeSampleLo | rdTimeSampleHi
  | rdDigestIn0 | rdDigestIn1 | rdDigestIn2 | rdDigestIn3 | rdDigestIn4 => cases hi
  | _ => exact absurd (congrArg Block.counter (write rfl)) hne

/-- The transaction of a poll is no write. -/
theorem decode_readAt_read {off : BitVec 8} {i : Instr} (hd : decode (readAt off) = .ok i) :
    (encode i).write = false := by
  obtain ⟨r, -, hr⟩ := decode_ok_iff.mp hd
  exact hr ▸ encode_readInstr_write r

/-- Settles O50: only an instruction changes the counter but for the reset, and it is decoded from a bus statement. -/
theorem onlyTheseEventsChangeTheCounter : Obligations.OnlyTheseEventsChangeTheCounter := by
  intro s t h hne
  rcases step_cases h with ⟨levels, hr, -⟩ | ⟨-, u, hu, rfl⟩ | ⟨-, -, hst⟩ | ⟨u, v, tr, i, hv, hprog, -, hf, hd, hx⟩ |
    ⟨v, tr, e, hv, -, rfl⟩
  · exact .inl ⟨levels, hr⟩
  · exact absurd (by rw [complete_counter, hu.st]) hne
  · exact absurd (by rw [hst.st]) hne
  · rw [← hv.st] at hne ⊢
    obtain ⟨hidle, hwrite, hevent⟩ := exec_changes_counter hx hne
    obtain ⟨rest, hp⟩ : ∃ rest, s.program = .bus tr :: rest := by
      rcases (fetch_some hf).2 with ⟨rest, hp, -⟩ | ⟨off, -, -, -, -, rfl, -⟩
      · exact ⟨rest, hprog ▸ hp⟩
      · simp [decode_readAt_read hd] at hwrite
    refine .inr ⟨hidle, tr, rest, i, hp, hd, ?_⟩
    cases hevent with
    | writeLo w hi => exact .inl ⟨w, hi⟩
    | writeHi w hi => exact .inr (.inl ⟨w, hi⟩)
    | advance w hi hw hdigits hc =>
      rcases hi with rfl | rfl
      · exact .inr (.inr ⟨by simp [writeCmdInstr, hw], hdigits, hc⟩)
      · simp [decodeCmd_of_decode_wrCmd hd] at hw
  · exact absurd (by rw [busError_st, hv.st]) hne

/-! ### Idempotence -/

/-- A register write whose effect is idempotent, and which does not touch the latch, is idempotent, IDLE and BUSY. -/
theorem hostWrite_idempotent {f : Block → Block} {s t : State} (h : hostWrite f s = .next t)
    (hf : ∀ b, f (f b) = f b) (hbusy : ∀ b, (f b).busy = b.busy) : hostWrite f t = .next t := by
  cases hb : s.st.busy with
  | true =>
    rw [hostWrite, hostAccess_busy hb] at h
    cases h
    exact hostAccess_busy hb
  | false =>
    rw [hostWrite_idle hb] at h
    cases h
    rw [hostWrite_idle ((hbusy _).trans hb), hf]

/-- A repeated read answers the same and changes nothing further. -/
theorem exec_read_idempotent {i : Instr} (hi : (encode i).write = false) {s t : State} (h : exec i s = .next t) :
    exec i t = .next t := by
  rcases exec_read_or_access i with ⟨-, r, -, hr⟩ | ⟨hw, -⟩
  · rw [hr] at h
    cases h
    exact hr _
  · simp [hi] at hw

/-- A repeated access while BUSY changes nothing further. -/
theorem exec_busy_idempotent {i : Instr} {s t : State} (hbusy : s.st.busy = true) (h : exec i s = .next t) :
    exec i t = .next t := by
  cases hi : (encode i).write with
  | false => exact exec_read_idempotent hi h
  | true =>
    rw [exec_write_busy hi hbusy] at h
    cases h
    exact exec_write_busy hi hbusy

/-- Each register write 20_memory.md R73 lists is idempotent: it replaces its field or half and reads nothing of it. -/
theorem exec_listed_write_idempotent {i : Instr} {w : Word} (hi : i ∈ [Instr.wrConfig w, .wrKeyClr w, .wrCounterLo w,
      .wrCounterHi w, .wrT0Lo w, .wrT0Hi w, .wrStepLo w, .wrStepHi w, .wrDigestIn0 w, .wrDigestIn1 w, .wrDigestIn2 w,
      .wrDigestIn3 w, .wrDigestIn4 w]) {s t : State} (h : exec i s = .next t) : exec i t = .next t := by
  have digest {k : Fin 5} {s t : State}
      (h : hostWrite (fun b => { b with digestIn := setDigestWord b.digestIn k w }) s = .next t) :
      hostWrite (fun b => { b with digestIn := setDigestWord b.digestIn k w }) t = .next t :=
    hostWrite_idempotent h (fun b => by simp only [setDigestWord_idem]) fun _ => rfl
  simp only [List.mem_cons, List.not_mem_nil, or_false] at hi
  rcases hi with rfl | rfl | rfl | rfl | rfl | rfl | rfl | rfl | rfl | rfl | rfl | rfl | rfl
  · exact hostWrite_idempotent h (fun _ => rfl) fun _ => rfl
  · exact hostWrite_idempotent h (fun _ => rfl) fun _ => rfl
  · exact hostWrite_idempotent h (fun b => by simp only [setLow_idem]) fun _ => rfl
  · exact hostWrite_idempotent h (fun b => by simp only [setHigh_idem]) fun _ => rfl
  · exact hostWrite_idempotent h (fun b => by simp only [setLow_idem]) fun _ => rfl
  · exact hostWrite_idempotent h (fun b => by simp only [setHigh_idem]) fun _ => rfl
  · exact hostWrite_idempotent h (fun b => by simp only [setLow_idem]) fun _ => rfl
  · exact hostWrite_idempotent h (fun b => by simp only [setHigh_idem]) fun _ => rfl
  · exact digest h
  · exact digest h
  · exact digest h
  · exact digest h
  · exact digest h

/-- A KEY_DATA write when IDLE appends the byte or sets OVF, and gets OKAY. -/
theorem exec_wrKeyData_idle {s : State} (hidle : s.st.busy = false) (w : Word) : exec (.wrKeyData w) s =
    .next { s with st := appendKeyByte s.keyCap (w.setWidth 8) s.st, resp := some .okayWrite } :=
  hostWrite_idle hidle

/-- Two KEY_DATA writes when IDLE: the second finds the buffer as the first left it. -/
theorem exec_wrKeyData_twice {s t u : State} {w : Word} (hidle : s.st.busy = false)
    (h : exec (.wrKeyData w) s = .next t) (h' : exec (.wrKeyData w) t = .next u) :
    t = { s with st := appendKeyByte s.keyCap (w.setWidth 8) s.st, resp := some .okayWrite } ∧
      u = { t with st := appendKeyByte s.keyCap (w.setWidth 8) t.st } := by
  rw [exec_wrKeyData_idle hidle] at h
  cases h
  rw [exec_wrKeyData_idle (by simpa using hidle)] at h'
  cases h'
  exact ⟨rfl, rfl⟩

/-- GEN_COUNTER accepted: BUSY with the counter advanced, BUSY_WR cleared and DIGITS kept (43_commands.md R184). -/
theorem exec_genCounter_accepted {s : State} (hidle : s.st.busy = false) (hdigits : s.st.digits.toNat ≤ 9) :
    ∃ t, exec .genCounter s = .next t ∧ t.st.busy = true ∧ t.st.counter = s.st.counter + 1 ∧ t.st.busyWr = false ∧
      t.st.digits = s.st.digits := by
  have hacc : acceptChecked acceptCounter s = acceptCounter ⟨s.st.digits.toNat, by omega⟩ (s.onSt clearForAcceptance) :=
    acceptChecked_ok rfl
  refine ⟨_, hostAccess_idle hidle, ?_⟩
  rw [hacc]
  exact ⟨rfl, rfl, rfl, rfl⟩

/-- CODE, SNUM and OFFSET are 0. -/
def ResultsCleared (b : Block) : Prop := b.code = 0 ∧ b.snum = 0 ∧ b.offset = 0

theorem Rejected.resultsCleared {b b' : Block} : Rejected b b' → ResultsCleared b' := by
  rintro ⟨_, _, -, rfl⟩
  exact ⟨rfl, rfl, rfl⟩

theorem Accepted.resultsCleared {b b' : Block} : Accepted b b' → ResultsCleared b' := by
  rintro ⟨_, _, _, -, rfl⟩
  exact ⟨rfl, rfl, rfl⟩

/-- The acceptance of a word other than NOP clears the results, whether or not its checks pass (43_commands.md R181). -/
theorem acceptWord_resultsCleared {w : Word} (hw : decodeCmd w ≠ .nop) (s : State) :
    ResultsCleared (acceptWord w s).st := by
  have checked {op : CmdOp} {b' : Block} (h : Rejected s.st b' ∨ Accepted s.st b' ∧ PassesChecks op s.st b') :
      ResultsCleared b' := h.elim (·.resultsCleared) (·.1.resultsCleared)
  rcases acceptWord_cases w s with ⟨hnop, -⟩ | ⟨-, h⟩ | ⟨-, h⟩ | ⟨-, h⟩ | ⟨-, h⟩
  · exact absurd hnop hw
  · rw [h]
    exact ⟨rfl, rfl, rfl⟩
  · exact h ▸ checked (acceptCounter_outcome s)
  · exact h ▸ checked (acceptTime_outcome s)
  · exact h ▸ checked (acceptTruncate_outcome s)

/-- Only the word 0 is NOP (30_encoding.md R93). -/
theorem decodeCmd_eq_nop_iff {w : Word} : decodeCmd w = .nop ↔ w = 0 := by
  unfold decodeCmd
  split_ifs <;> simp_all

/-- The three commands and a write of a non-zero word to CMD are acceptances of a word other than NOP. -/
theorem exec_nonNop_eq_acceptWord {i : Instr}
    (hi : i = .genCounter ∨ i = .genTime ∨ i = .truncate ∨ ∃ w, i = .wrCmd w ∧ w ≠ 0) (s : State) :
    ∃ w, decodeCmd w ≠ .nop ∧ exec i s = hostAccess (acceptWord w) s := by
  rcases hi with rfl | rfl | rfl | ⟨w, rfl, hw⟩
  · exact ⟨1, by decide, rfl⟩
  · exact ⟨2, by decide, rfl⟩
  · exact ⟨3, by decide, rfl⟩
  · exact ⟨w, mt decodeCmd_eq_nop_iff.mp hw, rfl⟩

/-- Settles O53: the listed accesses have idempotent effects, KEY_DATA and GEN_COUNTER move the key and the counter. -/
theorem readsAndConfigurationWritesAreIdempotent : Obligations.ReadsAndConfigurationWritesAreIdempotent := by
  refine ⟨fun i s t hi h => ?_, fun s t u w hidle h h' => ?_, fun s hidle hdigits => ?_, fun i s t hidle hi h => ?_⟩
  · rcases hi with hread | hbusy | ⟨w, hlisted⟩
    · exact exec_read_idempotent hread h
    · exact exec_busy_idempotent hbusy h
    · exact exec_listed_write_idempotent hlisted h
  · obtain ⟨rfl, rfl⟩ := exec_wrKeyData_twice hidle h h'
    refine ⟨fun htwo => ?_, fun hone => ?_, fun hfull => ?_⟩
    · have hroom : s.st.key.length < s.keyCap := by omega
      simp [appendKeyByte_of_lt, hroom, htwo]
    · have hroom : s.st.key.length < s.keyCap := by omega
      simp [appendKeyByte_of_lt hroom, appendKeyByte_of_ge, hone]
    · simp [appendKeyByte_of_ge, hfull]
  · obtain ⟨t, ht, hbusy, hcount, hwr, hkept⟩ := exec_genCounter_accepted hidle hdigits
    obtain ⟨v, hv, -, hcount', -⟩ :=
      exec_genCounter_accepted (complete_busy t) (by rwa [complete_digits, hkept])
    refine ⟨t, _, v, ht, hcount, hwr, exec_write_busy rfl hbusy, rfl, fun hut => ?_, hv, ?_⟩
    · have hset : true = t.st.busyWr := congrArg (·.st.busyWr) hut
      simp [hwr] at hset
    · rw [hcount', complete_counter, hcount, BitVec.add_assoc]
      rfl
  · obtain ⟨w, hw, hx⟩ := exec_nonNop_eq_acceptWord hi s
    rw [hx, hostAccess_idle hidle] at h
    cases h
    exact acceptWord_resultsCleared hw s

end Sys2Proof.Machine
end

section
/-! The statements of 30_encoding.md: the decoder and the encoder of transactions, of command words and of numbered bits,
the step of a poll, and the two halves of a 64-bit register. -/

namespace Sys2Proof

/-! ### Decoding what the encoder gives, and encoding what the decoder takes -/

/-- The row of each word written to CMD: the four command words have rows of their own, every other word is no legal
one (30_encoding.md R92 to R94). -/
theorem writeCmdInstr_cases (w : Word) :
    w = 0 ∧ writeCmdInstr w = .nop ∨ w = 1 ∧ writeCmdInstr w = .genCounter ∨ w = 2 ∧ writeCmdInstr w = .genTime ∨
      w = 3 ∧ writeCmdInstr w = .truncate ∨ legalCmdWord w = false ∧ writeCmdInstr w = .wrCmd w := by
  have hillegal : decodeCmd w = .illegal → legalCmdWord w = false := fun h =>
    Bool.eq_false_iff.mpr fun hl => (legalCmdWord_iff w).mp hl h
  unfold writeCmdInstr
  unfold decodeCmd at hillegal ⊢
  split_ifs at hillegal ⊢ with h0 h1 h2 h3
  · exact .inl ⟨h0, rfl⟩
  · exact .inr (.inl ⟨h1, rfl⟩)
  · exact .inr (.inr (.inl ⟨h2, rfl⟩))
  · exact .inr (.inr (.inr (.inl ⟨h3, rfl⟩)))
  · exact .inr (.inr (.inr (.inr ⟨hillegal rfl, rfl⟩)))

/-- A well-formed WR.CMD holds an illegal word, which a write of CMD decodes to. -/
theorem writeInstr_cmd_of_wf {w : Word} (h : (Instr.wrCmd w).wf = true) : writeInstr .cmd w = .wrCmd w := by
  have hlegal : legalCmdWord w = false := by simpa [Instr.wf] using h
  refine writeCmdInstr_of_illegal ?_
  by_contra hw
  simp [(legalCmdWord_iff w).mpr hw] at hlegal

/-- Every well-formed instruction is what a read or a write of a register decodes to. -/
theorem read_or_write_of_wf {i : Instr} (h : i.wf = true) :
    (∃ r, i = readInstr r) ∨ ∃ r w, i = writeInstr r w := by
  cases i with
  | nop => exact .inr ⟨.cmd, 0, rfl⟩
  | genCounter => exact .inr ⟨.cmd, 1, rfl⟩
  | genTime => exact .inr ⟨.cmd, 2, rfl⟩
  | truncate => exact .inr ⟨.cmd, 3, rfl⟩
  | rdId => exact .inl ⟨.id, rfl⟩
  | wrId w => exact .inr ⟨.id, w, rfl⟩
  | rdConfig => exact .inl ⟨.config, rfl⟩
  | wrConfig w => exact .inr ⟨.config, w, rfl⟩
  | rdCmd => exact .inl ⟨.cmd, rfl⟩
  | wrCmd w => exact .inr ⟨.cmd, w, (writeInstr_cmd_of_wf h).symm⟩
  | rdStatus => exact .inl ⟨.status, rfl⟩
  | wrStatus w => exact .inr ⟨.status, w, rfl⟩
  | rdCode => exact .inl ⟨.code, rfl⟩
  | wrCode w => exact .inr ⟨.code, w, rfl⟩
  | rdSnum => exact .inl ⟨.snum, rfl⟩
  | wrSnum w => exact .inr ⟨.snum, w, rfl⟩
  | rdOffset => exact .inl ⟨.offset, rfl⟩
  | wrOffset w => exact .inr ⟨.offset, w, rfl⟩
  | rdKeyClr => exact .inl ⟨.keyClr, rfl⟩
  | wrKeyClr w => exact .inr ⟨.keyClr, w, rfl⟩
  | rdKeyData => exact .inl ⟨.keyData, rfl⟩
  | wrKeyData w => exact .inr ⟨.keyData, w, rfl⟩
  | rdKeyLen => exact .inl ⟨.keyLen, rfl⟩
  | wrKeyLen w => exact .inr ⟨.keyLen, w, rfl⟩
  | rdCounterLo => exact .inl ⟨.counterLo, rfl⟩
  | wrCounterLo w => exact .inr ⟨.counterLo, w, rfl⟩
  | rdCounterHi => exact .inl ⟨.counterHi, rfl⟩
  | wrCounterHi w => exact .inr ⟨.counterHi, w, rfl⟩
  | rdT0Lo => exact .inl ⟨.t0Lo, rfl⟩
  | wrT0Lo w => exact .inr ⟨.t0Lo, w, rfl⟩
  | rdT0Hi => exact .inl ⟨.t0Hi, rfl⟩
  | wrT0Hi w => exact .inr ⟨.t0Hi, w, rfl⟩
  | rdStepLo => exact .inl ⟨.stepLo, rfl⟩
  | wrStepLo w => exact .inr ⟨.stepLo, w, rfl⟩
  | rdStepHi => exact .inl ⟨.stepHi, rfl⟩
  | wrStepHi w => exact .inr ⟨.stepHi, w, rfl⟩
  | rdTimeSampleLo => exact .inl ⟨.timeSampleLo, rfl⟩
  | wrTimeSampleLo w => exact .inr ⟨.timeSampleLo, w, rfl⟩
  | rdTimeSampleHi => exact .inl ⟨.timeSampleHi, rfl⟩
  | wrTimeSampleHi w => exact .inr ⟨.timeSampleHi, w, rfl⟩
  | rdDigestIn0 => exact .inl ⟨.digestIn0, rfl⟩
  | wrDigestIn0 w => exact .inr ⟨.digestIn0, w, rfl⟩
  | rdDigestIn1 => exact .inl ⟨.digestIn1, rfl⟩
  | wrDigestIn1 w => exact .inr ⟨.digestIn1, w, rfl⟩
  | rdDigestIn2 => exact .inl ⟨.digestIn2, rfl⟩
  | wrDigestIn2 w => exact .inr ⟨.digestIn2, w, rfl⟩
  | rdDigestIn3 => exact .inl ⟨.digestIn3, rfl⟩
  | wrDigestIn3 w => exact .inr ⟨.digestIn3, w, rfl⟩
  | rdDigestIn4 => exact .inl ⟨.digestIn4, rfl⟩
  | wrDigestIn4 w => exact .inr ⟨.digestIn4, w, rfl⟩

@[simp] theorem readInstr_wf (r : Reg) : (readInstr r).wf = true := by cases r <;> rfl

@[simp] theorem writeInstr_wf (r : Reg) (w : Word) : (writeInstr r w).wf = true := by
  cases r with
  | cmd =>
    rcases writeCmdInstr_cases w with ⟨-, h⟩ | ⟨-, h⟩ | ⟨-, h⟩ | ⟨-, h⟩ | ⟨hw, h⟩ <;> rw [writeInstr, h]
    · rfl
    · rfl
    · rfl
    · rfl
    · simp [Instr.wf, hw]
  | _ => rfl

@[simp] theorem encode_readInstr (r : Reg) : encode (readInstr r) = readAt r.off := by cases r <;> rfl

@[simp] theorem encode_writeInstr (r : Reg) (w : Word) : encode (writeInstr r w) = writeAt r.off w := by
  cases r with
  | cmd =>
    rcases writeCmdInstr_cases w with ⟨rfl, h⟩ | ⟨rfl, h⟩ | ⟨rfl, h⟩ | ⟨rfl, h⟩ | ⟨-, h⟩ <;> rw [writeInstr, h] <;> rfl
  | _ => rfl

/-- Settles O32: a well-formed row is encoded as the read or the write of its register, which decodes to the row. -/
theorem decodeEncodeRoundTrip : Obligations.DecodeEncodeRoundTrip := by
  intro i hwf
  rcases read_or_write_of_wf hwf with ⟨r, rfl⟩ | ⟨r, w, rfl⟩
  · rw [encode_readInstr, decode_readAt]
  · rw [encode_writeInstr, decode_writeAt]

/-- A transaction decodes to an instruction exactly when it is a 4-byte access at a register's offset, and then to the
read or the write of that register. -/
theorem decode_eq_ok_iff {t : Transaction} {i : Instr} :
    decode t = .ok i ↔ ∃ r : Reg, t.size = .four ∧ t.off = r.off ∧
      i = if t.write then writeInstr r t.wdata else readInstr r := by
  simp only [decode_ok_iff, checkAddress_eq_ok_iff, and_assoc, eq_comm (a := i)]

/-- Settles O33, by the encoding of the read and of the write of a register. -/
theorem encodeDecodeRoundTrip : Obligations.EncodeDecodeRoundTrip := by
  rintro ⟨off, size, write, wdata⟩ i hd
  obtain ⟨r, rfl, rfl, rfl⟩ := decode_eq_ok_iff.mp hd
  cases write with
  | true => exact ⟨writeInstr_wf r wdata, encode_writeInstr r wdata⟩
  | false => exact ⟨readInstr_wf r, encode_readInstr r⟩

/-! ### Which transactions the decoder admits -/

/-- The fields `off[1:0]` and `off[7:2]` of an offset in numbers (30_encoding.md R91). -/
theorem off_bits (off : BitVec 8) : (off.extractLsb' 0 2 = 0 ↔ off.toNat % 4 = 0) ∧
    (off.extractLsb' 2 6).toNat = off.toNat / 4 := by
  have hlt := off.isLt
  simp only [← BitVec.toNat_inj, BitVec.extractLsb'_toNat, Nat.shiftRight_eq_div_pow]
  constructor
  · simp
  · omega

/-- Slots 0 to 22 hold the registers (10_state.md section 3). -/
theorem regOfSlot_isSome_iff {k : Nat} : (∃ r, regOfSlot k = some r) ↔ k ≤ 22 := by
  constructor
  · rintro ⟨r, hr⟩
    have hoff : r.off.toNat ≤ 88 := by cases r <;> decide
    have := regOfSlot_eq_some_iff.mp hr
    omega
  · intro hk
    interval_cases k <;> exact ⟨_, rfl⟩

/-- The offsets of the registers are the multiples of 4 up to 0x58. -/
theorem exists_off_eq_iff {off : BitVec 8} :
    (∃ r : Reg, off = r.off) ↔ off.extractLsb' 0 2 = 0 ∧ (off.extractLsb' 2 6).toNat ≤ 22 := by
  obtain ⟨hlow, hslot⟩ := off_bits off
  rw [hlow, hslot, ← regOfSlot_isSome_iff]
  simp only [regOfSlot_eq_some_iff, ← BitVec.toNat_inj]
  constructor
  · rintro ⟨r, hr⟩
    have hmul : r.off.toNat % 4 = 0 := by cases r <;> rfl
    exact ⟨by omega, r, by omega⟩
  · rintro ⟨hmul, r, hr⟩
    exact ⟨r, by omega⟩

/-- The slot of a register's offset is the register's. -/
theorem regOfSlot_off (r : Reg) : regOfSlot (r.off.extractLsb' 2 6).toNat = some r := by cases r <;> rfl

/-! ### Command words -/

/-- A word is legal exactly by the two fields 30_encoding.md R92 names. -/
theorem legalCmdWord_iff_fields (w : Word) :
    legalCmdWord w = true ↔ w.extractLsb' 4 28 = 0 ∧ (w.extractLsb' 0 4).toNat ∈ [0, 1, 2, 3] := by
  have hmem (n : Nat) : n ∈ [0, 1, 2, 3] ↔ n < 4 := by
    simp only [List.mem_cons, List.not_mem_nil, or_false]
    omega
  simp only [legalCmdWord, Bool.and_eq_true, beq_iff_eq, decide_eq_true_eq, hmem]

/-! ### Numbered bits -/

theorem sizeOfCode_codeOfSize (z : Size) : sizeOfCode (codeOfSize z) = some z := by cases z <;> rfl

theorem codeOfSize_lt (z : Size) : codeOfSize z < 3 := by cases z <;> decide

theorem codeOfSize_of_sizeOfCode {c : Nat} {z : Size} (h : sizeOfCode c = some z) : codeOfSize z = c := by
  unfold sizeOfCode at h
  split at h <;> cases h <;> rfl

/-- A number is the bits of a transaction exactly when each field of the layout holds the transaction's (log entry 5). -/
theorem bitsOfTransaction_eq_iff {t : Transaction} {w : Nat} : bitsOfTransaction t = w ↔
    w % 2 ^ 8 = t.off.toNat ∧ w / 2 ^ 8 % 2 = t.write.toNat ∧ w / 2 ^ 9 % 4 = codeOfSize t.size ∧
      w / 2 ^ 11 % 2 ^ 5 = 0 ∧ w / 2 ^ 16 = t.wdata.toNat := by
  have hoff := t.off.isLt
  have hwrite := t.write.toNat_lt
  have hsize := codeOfSize_lt t.size
  unfold bitsOfTransaction
  omega

/-- The numbered bits of a transaction are 48. -/
theorem bitsOfTransaction_lt (t : Transaction) : bitsOfTransaction t < 2 ^ 48 := by
  obtain ⟨-, -, -, -, hdata⟩ := bitsOfTransaction_eq_iff.mp (Eq.refl (bitsOfTransaction t))
  have := t.wdata.isLt
  omega

/-- The decoder of numbered bits answers exactly the transaction whose bits they are. -/
theorem transactionOfBits_eq_some_iff {w : Nat} {t : Transaction} :
    transactionOfBits w = some t ↔ bitsOfTransaction t = w := by
  constructor
  · intro h
    unfold transactionOfBits at h
    split at h
    · cases h
    · rename_i z hz
      split at h
      · rename_i hlayout
        obtain ⟨hzero, hlt⟩ := hlayout
        cases h
        refine bitsOfTransaction_eq_iff.mpr ⟨?_, ?_, (codeOfSize_of_sizeOfCode hz).symm, hzero, ?_⟩
        · rfl
        · rcases Nat.mod_two_eq_zero_or_one (w / 2 ^ 8) with hb | hb <;> rw [hb] <;> rfl
        · exact (Nat.mod_eq_of_lt (by omega)).symm
      · cases h
  · intro h
    have hlt : w < 2 ^ 48 := h ▸ bitsOfTransaction_lt t
    obtain ⟨hoff, hwrite, hsize, hzero, hdata⟩ := bitsOfTransaction_eq_iff.mp h
    have hoff' : BitVec.ofNat 8 w = t.off := BitVec.eq_of_toNat_eq (by rw [BitVec.toNat_ofNat, hoff])
    have hwrite' : (w / 2 ^ 8 % 2 == 1) = t.write := by rw [hwrite]; cases t.write <;> rfl
    unfold transactionOfBits
    rw [hsize, sizeOfCode_codeOfSize]
    simp only [hzero, hlt, and_self, if_true, hdata, hoff', hwrite', BitVec.ofNat_toNat, BitVec.setWidth_eq]

/-- A table word whose transaction decodes answers that instruction. -/
theorem decodeTableWord_eq_some {nbits w : Nat} {t : Transaction} {i : Instr} (ht : transactionOfWord nbits w = some t)
    (hi : decode t = .ok i) : decodeTableWord nbits w = some i := by
  simp [decodeTableWord, ht, hi]

/-- Settles O34: the layout of the bits loses no field, and a 32-bit word is a write of CMD. -/
theorem numberedBitsRoundTrip : Obligations.NumberedBitsRoundTrip := by
  refine ⟨fun t => ⟨bitsOfTransaction_lt t, transactionOfBits_eq_some_iff.mpr rfl⟩,
    fun _ _ => transactionOfBits_eq_some_iff.mp, fun i hwf => ?_, fun w => ?_⟩
  · refine decodeTableWord_eq_some (t := encode i) ?_ (decodeEncodeRoundTrip i hwf)
    rw [transactionOfWord, if_neg (by decide), Nat.mod_eq_of_lt (bitsOfTransaction_lt _)]
    exact transactionOfBits_eq_some_iff.mpr rfl
  · refine decodeTableWord_eq_some (t := writeAt Reg.cmd.off w) ?_ (decode_writeAt .cmd w)
    simp [transactionOfWord, Reg.off]

/-- Settles O35, by running the decoders on each word. -/
theorem writtenOutWordsDecode : Obligations.WrittenOutWordsDecode := by
  unfold Obligations.WrittenOutWordsDecode
  decide

end Sys2Proof

namespace Sys2Proof.Machine

/-! ### The machine's answer to what the decoders take and refuse -/

/-- Settles O31: the decoder admits the offsets of the registers, and a refused transaction is `busError`. -/
theorem decodeAdmitsExactlyMappedWords : Obligations.DecodeAdmitsExactlyMappedWords := by
  refine ⟨fun t => ?_, fun t r hsize hoff => decode_eq_ok_iff.mpr ⟨r, hsize, hoff, rfl⟩, regOfSlot_off, fun k hk => ?_,
    fun t s hrefused => ?_⟩
  · rw [← exists_off_eq_iff]
    simp only [decode_eq_ok_iff]
    constructor
    · rintro ⟨i, r, hsize, hoff, -⟩
      exact ⟨hsize, r, hoff⟩
    · rintro ⟨hsize, r, hoff⟩
      exact ⟨_, r, hsize, hoff, rfl⟩
  · by_contra hsome
    have := regOfSlot_isSome_iff.mp (Option.ne_none_iff_exists'.mp hsome)
    omega
  · cases hd : decode t with
    | ok i => exact absurd ⟨i, hd⟩ hrefused
    | error e => exact ⟨_, runTransaction_error hd s, rfl, rfl⟩

/-- Settles O14: ILLEGAL is the answer for no legal word, and its acceptance is ILLEGAL_CMD's report. -/
theorem commandDecodeIsTotal : Obligations.CommandDecodeIsTotal := by
  refine ⟨by decide, by decide, by decide, by decide, fun w => ?_, fun w s hw hidle => ?_⟩
  · rw [← legalCmdWord_iff_fields, legalCmdWord_iff, not_not]
  · have haccept : acceptWord w s = acceptIllegal s := by simp [acceptWord, hw]
    have hexec : exec (.wrCmd w) s = .next ((acceptWord w s).answer .okayWrite) := hostAccess_idle hidle
    exact ⟨_, hexec, by rw [haccept]; exact ⟨rfl, rfl⟩⟩

/-! ### The step of a poll -/

/-- What a read at `off` answers in a state with the block and the fault record of `s`: the data `v` a poll sees, the bus
answer `a`, and the fault record `f` after it (20_memory.md R65, R67). -/
structure ReadAnswers (off : BitVec 8) (s : State) (v : Word) (a : BusResp) (f : Option Fault) : Prop where
  data : readValue off s.st = v
  run : ∀ u : State, u.st = s.st → u.hostFault = s.hostFault →
    runTransaction (readAt off) u = .next { u with resp := some a, hostFault := f }

/-- A read at a register's offset answers what the register reads as. -/
theorem readAnswers_register (r : Reg) (s : State) :
    ReadAnswers r.off s (regRead r s.st) (.okayRead (regRead r s.st)) s.hostFault where
  data := by simp [readValue]
  run u hst hfault := by
    rw [runTransaction_ok (decode_readAt r), exec_readInstr, ← hst, ← hfault]
    rfl

/-- A read at an offset the address check refuses answers 0 with SLVERR, recorded as a fault. -/
theorem readAnswers_refused {off : BitVec 8} {e : BusError} (h : checkAddress off .four = .error e) (s : State) :
    ReadAnswers off s 0 .slverr (s.hostFault.or (some (.slverr e))) where
  data := by simp [readValue, h]
  run u _ hfault := by
    rw [runTransaction_error (decode_error_iff.mpr h), ← hfault]
    rfl

/-- The answer depends on the block and on the fault record alone. -/
theorem ReadAnswers.congr {off : BitVec 8} {s u : State} {v : Word} {a : BusResp} {f : Option Fault}
    (h : ReadAnswers off s v a f) (hst : u.st = s.st) (hfault : u.hostFault = s.hostFault) :
    ReadAnswers off u v a f where
  data := by rw [hst, h.data]
  run w hwst hwfault := h.run w (hwst.trans hst) (hwfault.trans hfault)

/-- The host's program after a poll at its head has read `v` (30_encoding.md R99). -/
def afterPoll (off : BitVec 8) (mask val v : Word) (rest : List HostStmt) : List HostStmt :=
  if v &&& mask = val then rest else .poll off mask val :: rest

section
variable {s : State} {off : BitVec 8} {mask val v : Word} {rest : List HostStmt} {levels : List Bool} {a : BusResp}
  {f : Option Fault}

/-- The host's step on a poll runs the read and keeps the poll until the data matches. -/
theorem hostStep_poll_answers (hp : s.program = .poll off mask val :: rest) (hread : ReadAnswers off s v a f) :
    hostStep s = .next { s with program := afterPoll off mask val v rest, resp := some a, hostFault := f } := by
  rw [hostStep_poll hp, hread.data]
  unfold afterPoll
  split
  · exact hread.run _ rfl rfl
  · rw [hread.run _ rfl rfl, ← hp]

/-- When IDLE a step on a poll is the read. -/
theorem step_poll_idle (hp : s.program = .poll off mask val :: rest) (hr : noReset s levels)
    (hread : ReadAnswers off s v a f) (hidle : s.st.busy = false) : step s = .next { s with
      program := afterPoll off mask val v rest, resetIn := levels, wait := none, resp := some a, hostFault := f } := by
  rw [step_of_noReset hr, agentStep_idle (s := { s with resetIn := levels }) hidle]
  exact hostStep_poll_answers hp (hread.congr rfl rfl)

/-- While BUSY with a latency left once it is drawn, an agent step on a poll is the read, and the latency one less. -/
theorem agentStep_poll_busy {n : Nat} (hp : s.program = .poll off mask val :: rest) (hread : ReadAnswers off s v a f)
    (hbusy : s.st.busy = true) (hw : (drawLatency s).wait = some (n + 1)) : agentStep s = .next { drawLatency s with
      program := afterPoll off mask val v rest, wait := some n, resp := some a, hostFault := f } := by
  rw [← agentStep_drawLatency hbusy, agentStep_busy_wait (by simpa) hw (by simp [hp])]
  exact hostStep_poll_answers ((drawLatency_program s).trans hp)
    (hread.congr (drawLatency_st s) (bookkept_drawLatency s).hostFault)

/-- While BUSY with a latency left, already drawn or drawn now, a step on a poll is the read. -/
theorem step_poll_busy {n : Nat} {d : State} (hp : s.program = .poll off mask val :: rest) (hr : noReset s levels)
    (hread : ReadAnswers off s v a f) (hbusy : s.st.busy = true) (hdraw : drawLatency { s with resetIn := levels } = d)
    (hw : d.wait = some (n + 1)) : step s = .next { d with
      program := afterPoll off mask val v rest, wait := some n, resp := some a, hostFault := f } := by
  subst hdraw
  rw [step_of_noReset hr]
  exact agentStep_poll_busy hp (hread.congr rfl rfl) hbusy hw

end

/-- Settles O29: the read of a poll answers as the register or the refusal says, in each case of the latency. -/
theorem pollRepeatsItsReadUntilItMatches : Obligations.PollRepeatsItsReadUntilItMatches := by
  intro s off mask val v rest levels a f hp hr hcase p
  have hread : ReadAnswers off s v a f := by
    rcases hcase with ⟨r, rfl, hx, rfl, rfl⟩ | ⟨e, hrefused, rfl, rfl, rfl⟩
    · have hv : regRead r s.st = v := by
        rw [exec_readInstr] at hx
        injection hx with hx
        simpa using congrArg State.resp hx
      exact hv ▸ readAnswers_register r s
    · refine readAnswers_refused ?_ s
      rcases hrefused with ⟨hoff, rfl⟩ | ⟨hoff, hlast, rfl⟩
      · exact checkAddress_misaligned hoff
      · exact checkAddress_unmapped hoff hlast
  refine ⟨fun hidle => ?_, fun n hbusy hw => ?_, fun n ns hbusy hw hl => ?_, fun hbusy hw hl => ?_⟩
  · exact step_poll_idle hp hr hread hidle
  · exact step_poll_busy hp hr hread hbusy (drawLatency_drawn hw) hw
  · exact step_poll_busy hp hr hread hbusy (drawLatency_scripted hw hl) rfl
  · have hdraw : drawLatency { s with resetIn := levels } =
        { s with resetIn := levels, wait := some (Config.latency s.draws), draws := s.draws + 1 } :=
      drawLatency_free hw hl
    split <;> rename_i hk <;> rw [hk] at hdraw
    · rw [step_busy_complete hr hbusy hdraw rfl]
      exact congrArg _ (complete_forgets_wait (s := { s with resetIn := levels, draws := s.draws + 1 }) hbusy _)
    · exact step_poll_busy hp hr hread hbusy hdraw rfl

/-! ### The two halves of a 64-bit register -/

/-- Two register writes when IDLE have both their effects where the first leaves the latch alone. -/
theorem hostWrite_hostWrite {f g : Block → Block} {s t u : State} (hidle : s.st.busy = false)
    (h : hostWrite f s = .next t) (h' : hostWrite g t = .next u) (hf : (f s.st).busy = s.st.busy) :
    u.st = g (f s.st) := by
  rw [hostWrite_idle hidle] at h
  cases h
  rw [hostWrite_idle (hf.trans hidle)] at h'
  cases h'
  rfl

/-- A register put together from two words has their number, and its halves read as the words (30_encoding.md R95). -/
theorem register_of_halves {u : State} {rLo rHi : Reg} {v : Dword} {lo hi : Word} (h : v = hi ++ lo)
    (hlo : regRead rLo u.st = lowHalf v) (hhi : regRead rHi u.st = highHalf v) :
    v.toNat = hi.toNat * 2 ^ 32 + lo.toNat ∧
      exec (readInstr rLo) u = .next { u with resp := some (.okayRead lo) } ∧
      exec (readInstr rHi) u = .next { u with resp := some (.okayRead hi) } := by
  rw [exec_readInstr, exec_readInstr, hlo, hhi, lowHalf, highHalf, h, extractLow_append, extractHigh_append]
  exact ⟨append_toNat hi lo, rfl, rfl⟩

/-- Settles O54: in either order the two half writes make the register `hi ++ lo`, whatever it held. -/
theorem bothHalvesMakeTheWholeRegister : Obligations.BothHalvesMakeTheWholeRegister := by
  intro s t u lo hi hidle
  refine ⟨fun h h' => ?_, fun h h' => ?_, fun h h' => ?_, fun h h' => ?_, fun h h' => ?_, fun h h' => ?_⟩ <;>
    have hu := hostWrite_hostWrite hidle h h' rfl
  · rw [hu, setHigh_setLow, append_toNat]
  · rw [hu, setLow_setHigh, append_toNat]
  · exact register_of_halves (rLo := .t0Lo) (rHi := .t0Hi) (by rw [hu, setHigh_setLow]) rfl rfl
  · exact register_of_halves (rLo := .t0Lo) (rHi := .t0Hi) (by rw [hu, setLow_setHigh]) rfl rfl
  · exact register_of_halves (rLo := .stepLo) (rHi := .stepHi) (by rw [hu, setHigh_setLow]) rfl rfl
  · exact register_of_halves (rLo := .stepLo) (rHi := .stepHi) (by rw [hu, setLow_setHigh]) rfl rfl

end Sys2Proof.Machine
end

section
/-! Moving factors: the windows of the time factor, what a rejected command leaves alone, and rounds of GEN_COUNTER. -/

namespace Sys2Proof.Machine

/-! ### The time factor -/

/-- The quotient of PRODUCE_TIME fits its 64 bits (40_byte_source.md R118). -/
theorem timeQuotient_lt (n t0 step : Dword) : (n.toNat - t0.toNat) / step.toNat < 2 ^ 64 :=
  (Nat.div_le_self _ _).trans_lt ((Nat.sub_le _ _).trans_lt n.isLt)

/-- Settles O46: `be64` is injective, and the quotients are below `2 ^ 64`, so the factors differ where they do. -/
theorem timeWindowStability : Obligations.TimeWindowStability := by
  intro t0 step n m _ hn hm
  rw [timeFactor_eq hn, timeFactor_eq hm, be64_injective.eq_iff, ← BitVec.toNat_inj, BitVec.toNat_ofNat,
    BitVec.toNat_ofNat, Nat.mod_eq_of_lt (timeQuotient_lt n t0 step), Nat.mod_eq_of_lt (timeQuotient_lt m t0 step)]

/-! ### Rejection at acceptance -/

/-- The state after a command was rejected in state `s`: by a check made before the time input is sampled, or by the
epoch check on the sample `n` (40_byte_source.md R115, R122). -/
inductive Rejection (s : State) : State → Prop
  | unsampled (e : ErrCode) (he : e = .illegalCmd ∨ e = .invalidDigits ∨ e = .stepZero) :
      Rejection s (s.onSt fun b => cmdError e (clearForAcceptance b))
  | epoch (n : Dword) (f : Block → Block)
      (hf : f s.st = cmdError .timeBeforeEpoch { clearForAcceptance s.st with timeSample := n }) :
      Rejection s ((takeSample s).onSt f)

/-- Acceptance enters BUSY or is a rejection where the command's own part does or is one. -/
theorem acceptChecked_busy_or_rejection {own : Digits → State → State} {s : State}
    (hown : ∀ d, (own d (s.onSt clearForAcceptance)).st.busy = true ∨
      Rejection s (own d (s.onSt clearForAcceptance))) :
    (acceptChecked own s).st.busy = true ∨ Rejection s (acceptChecked own s) := by
  rcases acceptChecked_cases own s with ⟨d, -, h⟩ | ⟨-, h⟩ <;> rw [h]
  · exact hown d
  · exact .inr (.unsampled _ (.inr (.inl rfl)))

/-- GEN_TIME's own part enters BUSY, or fails the step check without a sample, or fails the epoch check on one. -/
theorem acceptTime_busy_or_rejection (s : State) (d : Digits) :
    (acceptTime d (s.onSt clearForAcceptance)).st.busy = true ∨
      Rejection s (acceptTime d (s.onSt clearForAcceptance)) := by
  rcases acceptTime_cases d (s.onSt clearForAcceptance) with ⟨-, h⟩ | ⟨-, h⟩ <;> rw [h]
  · exact .inr (.unsampled _ (.inr (.inr rfl)))
  · rw [takeSample_onSt]
    rcases acceptTimeAt_cases (sampleValue (s.onSt clearForAcceptance)) d (clearForAcceptance s.st) with
      ⟨-, h⟩ | ⟨-, h⟩
    · exact .inr (.epoch _ (acceptTimeAt _ d ∘ clearForAcceptance) h)
    · exact .inl (by simp [h])

/-- The acceptance of a word other than NOP enters BUSY or is a rejection. -/
theorem acceptWord_busy_or_rejection {w : Word} (hw : decodeCmd w ≠ .nop) (s : State) :
    (acceptWord w s).st.busy = true ∨ Rejection s (acceptWord w s) := by
  rcases acceptWord_cases w s with ⟨hnop, -⟩ | ⟨-, h⟩ | ⟨-, h⟩ | ⟨-, h⟩ | ⟨-, h⟩
  · exact absurd hnop hw
  · rw [h]
    exact .inr (.unsampled _ (.inl rfl))
  · rw [h]
    exact acceptChecked_busy_or_rejection fun _ => .inl rfl
  · rw [h]
    exact acceptChecked_busy_or_rejection (acceptTime_busy_or_rejection s)
  · rw [h]
    exact acceptChecked_busy_or_rejection fun _ => .inl rfl

/-- The block after a rejection when IDLE: the flags and the results, and everything else as it was. -/
theorem cmdError_clearForAcceptance {b : Block} (hidle : b.busy = false) (e : ErrCode) (n : Dword) :
    cmdError e { clearForAcceptance b with timeSample := n } = { b with
      done := true, err := true, errcode := e, busyWr := false, code := 0, snum := 0, offset := 0
      timeSample := n } := by
  simp [cmdError, clearForAcceptance, (busy_eq_false_iff b).mp hidle]

/-- Settles O26: a command that leaves the block IDLE is a rejection, and each rejection says what it changes. -/
theorem rejectionMutatesNothingElse : Obligations.RejectionMutatesNothingElse := by
  intro i s t hidle hi h htidle
  obtain ⟨w, hw, hx⟩ := exec_nonNop_eq_acceptWord hi s
  rw [hx, hostAccess_idle hidle] at h
  cases h
  rcases acceptWord_busy_or_rejection hw s with hbusy | hrej
  · simp [hbusy] at htidle
  · generalize acceptWord w s = u at hrej
    cases hrej with
    | unsampled e he =>
      refine ⟨cmdError_clearForAcceptance hidle e s.st.timeSample, ?_, fun _ => ⟨rfl, rfl, rfl⟩⟩
      rcases he with rfl | rfl | rfl <;> simp
    | epoch n f hf =>
      rw [cmdError_clearForAcceptance hidle] at hf
      rw [answer_st, onSt_st, takeSample_st, hf]
      exact ⟨rfl, .inr (.inr (.inr rfl)), fun hne => (hne rfl).elim⟩

/-! ### Rounds of GEN_COUNTER -/

@[simp] theorem completeLatch_key (l : Latch) (b : Block) : (completeLatch l b).key = b.key := by
  rcases completeLatch_cases l b with h | ⟨d, hs, h⟩ <;> rw [h] <;> rfl

@[simp] theorem completeLatch_keyOvf (l : Latch) (b : Block) : (completeLatch l b).keyOvf = b.keyOvf := by
  rcases completeLatch_cases l b with h | ⟨d, hs, h⟩ <;> rw [h] <;> rfl

/-- A round from an idle block with DIGITS = `d` completes the job latched from it, in the block cleared and with the
counter advanced (40_byte_source.md R112). -/
theorem counterRound_st {s : State} {d : Digits} (hidle : s.st.busy = false) (hd : s.st.digits.toNat = d.val) :
    ∃ l, (counterRound s).st = completeLatch (.genCounter (hmacJob d (be64 s.st.counter) s.st))
      { clearForAcceptance s.st with counter := s.st.counter + 1, latch := l } := by
  have hx : exec .genCounter s = .next ((acceptCounter d (s.onSt clearForAcceptance)).answer .okayWrite) := by
    rw [← acceptChecked_ok (own := acceptCounter) hd]
    exact hostAccess_idle hidle
  rw [counterRound, hx]
  exact ⟨_, rfl⟩

/-- The result of a round: HMAC_INIT with CODE 0 where key bytes had been dropped, else the code of the counter
(41_hmac_sha1.md R133; 40_byte_source.md R113). -/
theorem counterRound_result {s : State} {d : Digits} (hidle : s.st.busy = false) (hd : s.st.digits.toNat = d.val) :
    (counterRound s).st.code =
        (if s.st.keyOvf then 0 else (truncateReduce (hmacSha1 s.st.key (be64 s.st.counter)) d).code) ∧
      (counterRound s).st.errcode = if s.st.keyOvf then .hmacInit else .none := by
  obtain ⟨l, hst⟩ := counterRound_st hidle hd
  rw [hst]
  cases hovf : s.st.keyOvf <;> simp [completeLatch, completeJob, hmacJob, hovf]

/-- `t` is idle, with the key, OVF and DIGITS of `s` and the counter of `s` advanced by `n`. -/
structure CounterAdvanced (n : Nat) (s t : State) : Prop where
  idle : t.st.busy = false
  counter : t.st.counter = s.st.counter + BitVec.ofNat 64 n
  key : t.st.key = s.st.key
  keyOvf : t.st.keyOvf = s.st.keyOvf
  digits : t.st.digits = s.st.digits

/-- One round advances the counter by 1. -/
theorem counterRound_advances {s : State} (hidle : s.st.busy = false) (hdigits : s.st.digits.toNat ≤ 9) :
    CounterAdvanced 1 s (counterRound s) := by
  obtain ⟨l, hst⟩ := counterRound_st (d := ⟨s.st.digits.toNat, by omega⟩) hidle rfl
  constructor <;> simp [hst]

theorem CounterAdvanced.trans {n m : Nat} {s t u : State} (h : CounterAdvanced n s t) (h' : CounterAdvanced m t u) :
    CounterAdvanced (n + m) s u where
  idle := h'.idle
  counter := by rw [h'.counter, h.counter, BitVec.add_assoc, BitVec.ofNat_add]
  key := h'.key.trans h.key
  keyOvf := h'.keyOvf.trans h.keyOvf
  digits := h'.digits.trans h.digits

/-- `n` rounds advance the counter by `n` (40_byte_source.md R113). -/
theorem counterRound_iterate_advances {s : State} (hidle : s.st.busy = false) (hdigits : s.st.digits.toNat ≤ 9)
    (n : Nat) : CounterAdvanced n s (counterRound^[n] s) := by
  induction n with
  | zero => exact ⟨hidle, by simp, rfl, rfl, rfl⟩
  | succ n ih =>
    rw [Function.iterate_succ_apply']
    exact ih.trans (counterRound_advances ih.idle (ih.digits ▸ hdigits))

/-- Settles O47: `n` rounds advance the counter and keep what a round reads besides it, so the next round has the
result of a round from that counter. -/
theorem counterSequenceLaw : Obligations.CounterSequenceLaw := by
  intro n s hidle hdigits
  have hn := counterRound_iterate_advances hidle hdigits n
  have hd : s.st.digits.toNat = (⟨s.st.digits.toNat, by omega⟩ : Digits).val := rfl
  obtain ⟨hcode, herr⟩ := counterRound_result hn.idle ((congrArg _ hn.digits).trans hd)
  obtain ⟨hcode', herr'⟩ := counterRound_result
    (s := { s with st := { s.st with counter := s.st.counter + BitVec.ofNat 64 n } }) hidle hd
  refine ⟨?_, hn.idle, hn.key, hn.keyOvf, hn.digits, ?_, ?_⟩
  · simp [hn.counter]
  · rw [Function.iterate_succ_apply', hcode, hcode', hn.key, hn.keyOvf, hn.counter]
  · rw [Function.iterate_succ_apply', herr, herr', hn.keyOvf]

end Sys2Proof.Machine
end

section
/-! The statements of 41_hmac_sha1.md: padding and block counts, the key, the known answer, a command with dropped key
bytes, and what no answer of the block shows. -/

namespace Sys2Proof.Machine

/-! ### Padding and blocks -/

/-- The padding is the marker byte, the filling and the 8-byte bit length (41_hmac_sha1.md R137). -/
@[simp] theorem pad_length (x : List Byte) : (pad x).length = x.length + 1 + padZeros x.length + 8 := by
  simp only [pad, List.length_append, List.length_singleton, List.length_replicate, Vector.length_toList]

theorem padZeros_lt (len : Nat) : padZeros len < 64 := Nat.mod_lt _ (by decide)

/-- The filling makes the padded length a whole number of blocks, the least that holds the string, the marker and the
length. -/
theorem padded_length_eq (len : Nat) : len + 1 + padZeros len + 8 = 64 * ((len + 9 + 63) / 64) := by
  unfold padZeros
  omega

theorem isPrefix_pad (x : List Byte) : x <+: pad x := by
  simp only [pad, List.append_assoc, List.prefix_append]

@[simp] theorem blocks_length (n : Nat) (x : List Byte) : (blocks n x).length = n := by
  induction n generalizing x with
  | zero => rfl
  | succ n ih => rw [blocks, List.length_cons, ih]

/-- Each of `n` blocks has 64 bytes where the string has that many. -/
theorem length_of_mem_blocks {n : Nat} {x y : List Byte} (hx : 64 * n ≤ x.length) (hy : y ∈ blocks n x) :
    y.length = 64 := by
  induction n generalizing x with
  | zero => cases hy
  | succ n ih =>
    rw [blocks, List.mem_cons] at hy
    rcases hy with rfl | hy
    · rw [List.length_take]
      omega
    · exact ih (by rw [List.length_drop]; omega) hy

/-- The number of 64-byte blocks SHA-1 compresses (41_hmac_sha1.md R143). -/
theorem paddedBlocks_length (x : List Byte) : (paddedBlocks x).length = (x.length + 9 + 63) / 64 := by
  rw [paddedBlocks, blocks_length, pad_length, padded_length_eq, Nat.mul_div_cancel_left _ (by decide)]

theorem length_of_mem_paddedBlocks {x y : List Byte} (hy : y ∈ paddedBlocks x) : y.length = 64 :=
  length_of_mem_blocks (Nat.mul_div_le _ _) hy

/-! ### The key -/

/-- A key that fits a block is filled with zeros (41_hmac_sha1.md R136). -/
theorem deriveK0_of_le {key : List Byte} (h : key.length ≤ 64) :
    deriveK0 key = key ++ List.replicate (64 - key.length) 0x00#8 := by
  simp only [deriveK0, Nat.not_lt.mpr h, if_false]

theorem sha1_toList_length_le (x : List Byte) : (sha1 x).toList.length ≤ 64 := by
  rw [Vector.length_toList]
  decide

/-- A key over a block stands for its digest, which fits one (41_hmac_sha1.md R136). -/
theorem deriveK0_of_gt {key : List Byte} (h : 64 < key.length) : deriveK0 key = deriveK0 (sha1 key).toList := by
  rw [deriveK0_of_le (sha1_toList_length_le key), deriveK0, if_pos h]

@[simp] theorem deriveK0_length (key : List Byte) : (deriveK0 key).length = 64 := by
  have filled {k : List Byte} (h : k.length ≤ 64) : (deriveK0 k).length = 64 := by
    rw [deriveK0_of_le h, List.length_append, List.length_replicate]
    omega
  rcases Nat.lt_or_ge 64 key.length with h | h
  · rw [deriveK0_of_gt h]
    exact filled (sha1_toList_length_le key)
  · exact filled h

/-- Settles O23, from the padded length as a whole number of blocks. -/
theorem hashInputSizes : Obligations.HashInputSizes := by
  refine ⟨fun x => ⟨?_, isPrefix_pad x, padZeros_lt _, pad_length x, paddedBlocks_length x,
    fun _ => length_of_mem_paddedBlocks⟩, deriveK0_length, fun x hx => ?_⟩
  · rw [pad_length, padded_length_eq, Nat.mul_mod_right]
  · rcases hx with hx | hx <;> rw [paddedBlocks_length, hx]

/-- A zero byte after a key that leaves room for it is part of the filling. -/
theorem deriveK0_append_zero {key : List Byte} (h : key.length < 64) : deriveK0 (key ++ [0x00#8]) = deriveK0 key := by
  have hlength : (key ++ [0x00#8]).length = key.length + 1 := List.length_append
  have hfill : 64 - key.length = (64 - (key.length + 1)) + 1 := by omega
  rw [deriveK0_of_le (hlength ▸ h), deriveK0_of_le h.le, hlength, hfill, List.replicate_succ, List.append_assoc,
    List.singleton_append]

/-- HMAC reads the key through its 64-byte form alone (41_hmac_sha1.md R135). -/
theorem hmacSha1Bytes_congr {key key' : List Byte} (h : deriveK0 key = deriveK0 key') (msg : List Byte) :
    hmacSha1Bytes key msg = hmacSha1Bytes key' msg := by
  rw [hmacSha1Bytes, hmacSha1Bytes, h]

/-- Settles O24, by what the 64-byte form of the key is in each case of its length. -/
theorem longKeysAreHashedFirst : Obligations.LongKeysAreHashedFirst := by
  refine fun key msg => ⟨fun hlong => ?_, fun hexact => ?_, fun hshort => ?_⟩
  · exact hmacSha1Bytes_congr (deriveK0_of_gt hlong) msg
  · rw [deriveK0_of_le hexact.le, hexact, Nat.sub_self, List.replicate_zero, List.append_nil]
  · exact hmacSha1Bytes_congr (deriveK0_append_zero hshort) msg

/-- Settles O22: a closed value of the engine, which the kernel evaluates. -/
theorem hmacKnownAnswer : Obligations.HmacKnownAnswer := by
  unfold Obligations.HmacKnownAnswer
  decide +kernel

/-! ### A busy stretch and its completion -/

/-- While the block stays BUSY at most BUSY_WR changes in it, whatever the host does (20_memory.md R66). -/
theorem staysBusy_st {n : Nat} {t v : State} (h : staysBusy n t v) : ∃ w, v.st = { t.st with busyWr := w } := by
  induction n generalizing t with
  | zero =>
    obtain ⟨-, rfl⟩ := h
    exact ⟨_, rfl⟩
  | succ n ih =>
    obtain ⟨hbusy, u, hstep, hu⟩ := h
    have hubusy : u.st.busy = true := by cases n <;> exact hu.1
    obtain ⟨w, hv⟩ := ih hu
    rcases busyBlockChangesOnlyBusyWrUntilItCompletes t u hbusy hstep with ⟨-, hst⟩ | hst | hst | hst <;> rw [hst] at hv
    · simp [hst] at hubusy
    · simp [hst] at hubusy
    · exact ⟨w, hv⟩
    · exact ⟨w, hv⟩

/-- The step that ends a busy stretch without a reset completes the record latched at its beginning, in the block as it
was then but for BUSY_WR (43_commands.md R196). -/
theorem busy_stretch_completes {n : Nat} {t v u : State} {l : Latch} (hl : t.st.latch = some l)
    (hstays : staysBusy n t v) (hstep : step v = .next u) (hidle : u.st.busy = false)
    (hreset : ∀ levels, v.resetIn ≠ true :: levels) : ∃ w, u.st = completeLatch l { t.st with busyWr := w } := by
  obtain ⟨w, hv⟩ := staysBusy_st hstays
  have hlv : v.st.latch = some l := by rw [hv, hl]
  rcases step_busy_to_idle hstep ((busy_eq_true_iff _).mpr ⟨l, hlv⟩) hidle with ⟨levels, hr⟩ | hst
  · exact absurd hr (hreset levels)
  · exact ⟨w, by rw [hst, complete_of_latch hlv, ← hv]⟩

/-- GEN_COUNTER accepted: the job latched from the block, which is cleared and has the counter advanced
(43_commands.md R184). -/
theorem exec_genCounter_st {s : State} {d : Digits} (hidle : s.st.busy = false) (hd : s.st.digits.toNat = d.val) :
    ∃ t, exec .genCounter s = .next t ∧ t.st = enterBusy (.genCounter (hmacJob d (be64 s.st.counter) s.st))
      { clearForAcceptance s.st with counter := s.st.counter + 1 } := by
  refine ⟨_, hostAccess_idle hidle, ?_⟩
  rw [acceptChecked_ok hd]
  rfl

/-- The job of a key with dropped bytes completes with HMAC_INIT (41_hmac_sha1.md R132, R133). -/
theorem completeJob_of_keyOvf {j : HmacJob} (h : j.keyOvf = true) (b : Block) : completeJob j b = cmdError .hmacInit b :=
  if_pos h

/-- Settles O48: the job latched with OVF set completes with HMAC_INIT, in the block the acceptance left. -/
theorem hmacInitLeavesTheCounterAdvanced : Obligations.HmacInitLeavesTheCounterAdvanced := by
  intro s hidle hdigits hovf
  obtain ⟨t, hx, ht⟩ := exec_genCounter_st (d := ⟨s.st.digits.toNat, by omega⟩) hidle rfl
  refine ⟨t, hx, by rw [ht, enterBusy_busy], fun n v u hstays hstep huidle hreset => ?_⟩
  obtain ⟨w, hu⟩ := busy_stretch_completes (by rw [ht]; rfl) hstays hstep huidle hreset
  rw [completeLatch, completeJob_of_keyOvf hovf, ht] at hu
  rw [hu]
  exact ⟨rfl, rfl, rfl, rfl, rfl, rfl, rfl⟩

/-! ### What no answer shows -/

/-- The read function reads the key's length alone of the key, whether the latch holds a record alone of the latch, and
nothing of the counter (41_hmac_sha1.md R145; 10_state.md R33, R40). -/
theorem regRead_congr (r : Reg) {b : Block} {key : List Byte} {latch : Option Latch} (counter : Dword)
    (hkey : key.length = b.key.length) (hlatch : latch.isSome = b.latch.isSome) :
    regRead r { b with key := key, counter := counter, latch := latch } = regRead r b := by
  cases r with
  | status => simp only [regRead, statusWord, Block.busy, hlatch]
  | keyLen => simp only [regRead, keyLenWord, Block.keyLen, hkey]
  | _ => rfl

/-- Every admitted write gets the same OKAY (20_memory.md R62). -/
theorem exec_write_resp {i : Instr} (hi : (encode i).write = true) {s t : State} (h : exec i s = .next t) :
    t.resp = some .okayWrite := by
  obtain ⟨f, hf, -⟩ := exec_write_blockChange hi s
  rw [hf] at h
  cases h
  rfl

/-- Settles O49: a write's answer is always the same, and a read answers the read function. -/
theorem keyAndCounterAreNeverReadable : Obligations.KeyAndCounterAreNeverReadable := by
  intro i s t t' key' counter' latch' hkey hlatch h h'
  rcases exec_read_or_access i with ⟨-, r, -, hread⟩ | ⟨hi, -⟩
  · rw [hread] at h h'
    cases h
    cases h'
    exact congrArg (fun w => some (BusResp.okayRead w)) (regRead_congr r counter' hkey hlatch)
  · rw [exec_write_resp hi h, exec_write_resp hi h']

end Sys2Proof.Machine
end

section
/-! The statements of 42_truncation_reduction.md: the stages of the datapath as natural numbers, the modulus table, the
range of the code and the bounds of the window. -/

namespace Sys2Proof.Machine

/-! ### The stages -/

/-- The offset is the low nibble of the last byte (42_truncation_reduction.md R160). -/
theorem selectOffset_toNat (hs : Digest) : (selectOffset hs).toNat = hs[19].toNat % 16 := by
  have low : (hs[19] &&& 0x0F#8).toNat = hs[19].toNat % 16 := by
    rw [BitVec.toNat_and]
    exact Nat.and_two_pow_sub_one_eq_mod _ 4
  rw [selectOffset, BitVec.toNat_setWidth, low]
  exact Nat.mod_mod _ 16

/-- The mask clears bit 7 of a byte, so it reduces the byte modulo 2^7 (42_truncation_reduction.md R162). -/
theorem maskByte_toNat (b : Byte) : (b &&& 0x7F#8).toNat = b.toNat % 128 := by
  rw [BitVec.toNat_and]
  exact Nat.and_two_pow_sub_one_eq_mod _ 7

/-- SNUM is the big-endian number of the window, whose first byte is masked (42_truncation_reduction.md R162, R164). -/
theorem packWindow_maskWindow_toNat (w : Window) : (packWindow (maskWindow w)).toNat =
    (w[0].toNat % 128) * 2 ^ 24 + w[1].toNat * 2 ^ 16 + w[2].toNat * 2 ^ 8 + w[3].toNat := by
  rw [← maskByte_toNat]
  exact be32dec_toNat _ _ _ _

/-- The window is the four digest bytes from the offset on (42_truncation_reduction.md R161). -/
theorem selectWindow_getElem (hs : Digest) (offset : BitVec 4) (k : Fin 4) :
    (selectWindow hs offset)[k] = hs[offset.toNat + k.val]'(window_index_lt offset k k.isLt) := by
  match k with
  | 0 | 1 | 2 | 3 => rfl

/-! ### The statements -/

/-- Settles O17, stage by stage: the offset's value, the packed window at that offset, the reduction. -/
theorem datapathComputesOffsetSnumAndCode : Obligations.DatapathComputesOffsetSnumAndCode := by
  refine fun hs d => ⟨selectOffset_toNat hs, fun o ho => ?_, truncateReduce_code hs d⟩
  obtain ⟨o, hlt⟩ := o
  obtain rfl : (selectOffset hs).toNat = o := ho
  exact packWindow_maskWindow_toNat (selectWindow hs (selectOffset hs))

/-- Settles O18: the power law of the table, and its ten entries as they are printed. -/
theorem modulusTableIsPowersOfTen : Obligations.ModulusTableIsPowersOfTen :=
  ⟨modulus_toNat, by decide, rfl⟩

/-- Settles O19: the code is a remainder of `snum`, and the mask keeps `snum` below 2^31. -/
theorem codeRangeAndSnumMask : Obligations.CodeRangeAndSnumMask := by
  intro hs d
  have hsnum := truncateReduce_snum_lt hs d
  have hcode : (truncateReduce hs d).code.toNat < 10 ^ d.val := by
    rw [truncateReduce_code]
    exact Nat.mod_lt _ (by positivity)
  have hle : (truncateReduce hs d).code.toNat ≤ (truncateReduce hs d).snum.toNat := by
    rw [truncateReduce_code]
    exact Nat.mod_le _ _
  have hpow : 10 ^ d.val ≤ 10 ^ 9 := Nat.pow_le_pow_right (by decide) (Nat.le_of_lt_succ d.isLt)
  refine ⟨hcode, hle, Nat.testBit_lt_two_pow hsnum, Nat.le_pred_of_lt hsnum, ?_, hcode.trans_le hpow, by decide⟩
  rw [BitVec.toInt_eq_toNat_of_lt (Nat.mul_lt_mul_of_pos_left hsnum (by decide))]
  exact Int.natCast_nonneg _

/-- Settles O20: a 4-bit offset is at most 15, and the window's byte `k` is the digest's byte `offset + k`. -/
theorem windowStaysInsideTheDigest : Obligations.WindowStaysInsideTheDigest := by
  intro hs
  have hoffset : (selectOffset hs).toNat ≤ 15 := Nat.le_of_lt_succ (selectOffset hs).isLt
  exact ⟨hoffset, by omega, by omega, fun k _ => selectWindow_getElem hs (selectOffset hs) k⟩

end Sys2Proof.Machine
end

section
/-! The statements of 43_commands.md: the acceptance and the completion of each command, the results a completion leaves,
and what else may touch them. -/

namespace Sys2Proof.Machine

/-! ### Acceptance -/

/-- Settles O8: NOP is the admitted write with no effect, and no other word decodes to it. -/
theorem nopHasNoEffect : Obligations.NopHasNoEffect :=
  ⟨fun _ => ⟨fun hidle => hostAccess_idle hidle, fun hbusy => hostAccess_busy hbusy⟩, fun _ => decodeCmd_eq_nop_iff⟩

section
variable {own : Digits → State → State} {s : State} (hidle : s.st.busy = false)
include hidle

/-- A command accepted when IDLE with DIGITS in 0..9 gets OKAY, after the clearing and the command's own part. -/
theorem hostAccess_acceptChecked_ok {d : Digits} (hd : s.st.digits.toNat = d.val) :
    hostAccess (acceptChecked own) s = .next ((own d (s.onSt clearForAcceptance)).answer .okayWrite) := by
  rw [hostAccess_idle hidle, acceptChecked_ok hd]

/-- A rejection before the time input is sampled: the flags report it, the results are 0, and the rest is as it was
(60_exceptions.md R212). -/
theorem answer_rejected (e : ErrCode) :
    (s.onSt fun b => cmdError e (clearForAcceptance b)).answer .okayWrite = { s with
      st := { s.st with
        done := true, err := true, errcode := e, busyWr := false, code := 0, snum := 0, offset := 0 }
      resp := some .okayWrite } :=
  congrArg (fun b => { s with st := b, resp := some .okayWrite }) (cmdError_clearForAcceptance hidle e s.st.timeSample)

/-- A command when IDLE with DIGITS above 9 is rejected with INVALID_DIGITS, whichever it is (43_commands.md R181 (b)). -/
theorem hostAccess_acceptChecked_bad (hbad : 9 < s.st.digits.toNat) :
    hostAccess (acceptChecked own) s = .next { s with
      st := { s.st with
        done := true, err := true, errcode := .invalidDigits, busyWr := false, code := 0, snum := 0, offset := 0 }
      resp := some .okayWrite } := by
  rw [hostAccess_idle hidle, acceptChecked_bad hbad, answer_rejected hidle]

end

/-- Settles O9: the digits check, then the counter produced and latched. -/
theorem genCounterAcceptance : Obligations.GenCounterAcceptance := fun _ hidle =>
  ⟨fun _ hd => hostAccess_acceptChecked_ok (own := acceptCounter) hidle hd, hostAccess_acceptChecked_bad hidle⟩

/-- Settles O11: the digits check, then the digest latched. -/
theorem truncateAcceptance : Obligations.TruncateAcceptance := fun _ hidle =>
  ⟨fun _ hd => hostAccess_acceptChecked_ok (own := acceptTruncate) hidle hd, hostAccess_acceptChecked_bad hidle⟩

/-- GEN_TIME past its digits and step checks takes the sample `n`, and goes on to the epoch check (43_commands.md
R187). -/
theorem exec_genTime_sampled {s u : State} {d : Digits} {n : Dword} (hidle : s.st.busy = false)
    (hd : s.st.digits.toNat = d.val) (hstep : s.st.step ≠ 0) (hn : sampled s n u) :
    exec .genTime s =
      .next { u with st := acceptTimeAt n d (clearForAcceptance s.st), resp := some .okayWrite } := by
  obtain ⟨rfl, rfl⟩ := sampled_iff.mp hn
  have htime : acceptTime d (s.onSt clearForAcceptance) =
      (takeSample (s.onSt clearForAcceptance)).onSt (acceptTimeAt (sampleValue s) d) := if_neg hstep
  calc exec .genTime s
      = .next ((acceptTime d (s.onSt clearForAcceptance)).answer .okayWrite) := hostAccess_acceptChecked_ok hidle hd
    _ = .next { takeSample s with
          st := acceptTimeAt (sampleValue s) d (clearForAcceptance (takeSample s).st), resp := some .okayWrite } := by
        rw [htime, takeSample_onSt]; rfl
    _ = _ := by rw [takeSample_st]

/-- GEN_TIME accepted: the job latched for the number of whole steps from T0 to the sample `n`, in the block cleared
(43_commands.md R187; 40_byte_source.md R118). -/
theorem exec_genTime_accepted {s u : State} {d : Digits} {n : Dword} (hidle : s.st.busy = false)
    (hd : s.st.digits.toNat = d.val) (hstep : s.st.step ≠ 0) (hn : sampled s n u)
    (hepoch : s.st.t0.toNat ≤ n.toNat) :
    exec .genTime s = .next { u with
      st := enterBusy
        (.genTime (hmacJob d (be64 (BitVec.ofNat 64 ((n.toNat - s.st.t0.toNat) / s.st.step.toNat))) s.st))
        { clearForAcceptance s.st with timeSample := n }
      resp := some .okayWrite } := by
  rw [exec_genTime_sampled hidle hd hstep hn, ← timeFactor_eq hepoch]
  rcases acceptTimeAt_cases n d (clearForAcceptance s.st) with ⟨hbefore, -⟩ | ⟨-, h⟩
  · exact absurd hbefore (Nat.not_lt.mpr hepoch)
  · rw [h]
    rfl

/-- Settles O10: the three checks in order, the sample taken between the second and the third. -/
theorem genTimeAcceptance : Obligations.GenTimeAcceptance := by
  refine fun s hidle => ⟨hostAccess_acceptChecked_bad hidle, fun hdigits hstep => ?_, fun d n u hd hstep hn =>
    ⟨fun hbefore => ?_, exec_genTime_accepted hidle hd hstep hn⟩⟩
  · have htime : acceptTime ⟨s.st.digits.toNat, by omega⟩ (s.onSt clearForAcceptance) =
        s.onSt fun b => cmdError .stepZero (clearForAcceptance b) := if_pos hstep
    rw [← answer_rejected hidle, ← htime]
    exact hostAccess_acceptChecked_ok hidle rfl
  · rw [exec_genTime_sampled hidle hd hstep hn]
    rcases acceptTimeAt_cases n d (clearForAcceptance s.st) with ⟨-, h⟩ | ⟨hepoch, -⟩
    · rw [h, cmdError_clearForAcceptance hidle]
    · exact absurd hepoch (Nat.not_le.mpr hbefore)

/-- Settles O12: a word with such fields decodes to ILLEGAL, whose acceptance reads no DIGITS. -/
theorem illegalWordIsRejected : Obligations.IllegalWordIsRejected := by
  refine fun s w hidle hw => ⟨?_, rfl⟩
  have hillegal : decodeCmd w = .illegal := by
    by_contra hlegal
    obtain ⟨hhigh, hlow⟩ := (legalCmdWord_iff_fields w).mp ((legalCmdWord_iff w).mpr hlegal)
    simp only [List.mem_cons, List.not_mem_nil, or_false] at hlow
    rcases hw with hw | hw
    · exact hw hhigh
    · omega
  have haccept : acceptWord w s = s.onSt fun b => cmdError .illegalCmd (clearForAcceptance b) := by
    simp [acceptWord, hillegal, acceptIllegal]
  rw [← answer_rejected hidle, ← haccept]
  exact hostAccess_idle hidle

/-- The row of a word written to CMD, by the word's value (30_encoding.md R93). -/
theorem writeCmdInstr_eq_ite (w : Word) : writeCmdInstr w = if w = 0 then .nop else if w = 1 then .genCounter
    else if w = 2 then .genTime else if w = 3 then .truncate else .wrCmd w := by
  unfold writeCmdInstr decodeCmd
  simp only [BitVec.ofNat_eq_ofNat]
  split_ifs <;> rfl

/-- Settles O13: the acceptance of a legal word is its command's, whose own statement says what it does. -/
theorem cmdWriteOfALegalWordIsItsCommand : Obligations.CmdWriteOfALegalWordIsItsCommand := by
  refine ⟨fun s => ⟨rfl, rfl, rfl, rfl⟩, fun s hidle => ⟨hostAccess_idle hidle, fun d hd => ⟨?_, ?_⟩⟩, fun w => ?_⟩
  · exact (genCounterAcceptance s hidle).1 d hd
  · exact (truncateAcceptance s hidle).1 d hd
  · exact (decode_writeAt .cmd w).trans (congrArg _ (writeCmdInstr_eq_ite w))

/-! ### Completion -/

/-- The job of a key with no dropped byte completes with the datapath on its HMAC (41_hmac_sha1.md R132). -/
theorem completeJob_of_not_keyOvf {j : HmacJob} (h : j.keyOvf = false) (b : Block) :
    completeJob j b = finish j.digits (hmacSha1 j.key j.msg) b :=
  if_neg (by simp [h])

/-- Settles O15: both hashing commands complete their job, TRUNCATE finishes on the latched digest. -/
theorem completionWritesTheResultsOfTheLatch : Obligations.CompletionWritesTheResultsOfTheLatch := by
  intro s
  refine ⟨fun j hl => ?_, fun d hs hl => complete_of_latch hl, fun hl => complete_idle ((busy_eq_false_iff _).mpr hl)⟩
  have hjob : complete s = { s with st := completeJob j s.st, wait := none } := by
    rcases hl with hl | hl <;> exact complete_of_latch hl
  refine ⟨fun hovf => ?_, fun hovf => ?_⟩
  · rw [hjob, completeJob_of_keyOvf hovf]
    rfl
  · rw [hjob, completeJob_of_not_keyOvf hovf]
    rfl

/-- With no statement left the host waits (60_exceptions.md R226). -/
theorem hostStep_empty {s : State} (hp : s.program = []) : hostStep s = .next s := by
  simp [hostStep, fetch, hp]

/-- The completion of a busy state leaves no latency to wait for. -/
theorem complete_wait {s : State} (hbusy : s.st.busy = true) : (complete s).wait = none := by
  obtain ⟨l, hl⟩ := (busy_eq_true_iff s.st).mp hbusy
  rw [complete_of_latch hl]

/-- While BUSY with the latency drawn as 0, or with nothing to issue, a step is the completion (43_commands.md R195). -/
theorem step_engine_completes {s d : State} {levels : List Bool} (hr : noReset s levels) (hbusy : s.st.busy = true)
    (hdraw : drawLatency { s with resetIn := levels } = d) (hmoves : d.wait = some 0 ∨ s.program = []) :
    step s = .next (complete d) := by
  subst hdraw
  rw [step_of_noReset hr]
  exact agentStep_busy_complete hbusy hmoves

/-- Settles O16: in each busy case the engine moves, on the latency as the case says it is drawn. -/
theorem engineCompletesAtItsTurn : Obligations.EngineCompletesAtItsTurn := by
  intro s levels hr
  refine ⟨fun n hbusy hw hn => ?_, fun hbusy hw hp => ?_, fun ns hbusy hw hl => ?_, fun hidle hp => ?_⟩
  · exact step_engine_completes hr hbusy (drawLatency_drawn hw) (hn.imp_left fun h : n = 0 => h ▸ hw)
  · refine ⟨_, step_engine_completes hr hbusy rfl (.inr hp), ?_, ?_, ?_⟩
    · exact complete_st_congr (drawLatency_st _)
    · rw [complete_program, drawLatency_program, hp]
    · exact complete_wait (by rwa [drawLatency_st])
  · rw [step_engine_completes hr hbusy (drawLatency_scripted hw hl) (.inl rfl)]
    exact congrArg _ (complete_forgets_wait (s := { s with resetIn := levels, latencyIn := ns }) hbusy _)
  · rw [step_of_noReset hr, agentStep_idle (s := { s with resetIn := levels }) hidle]
    exact hostStep_empty hp

/-! ### What the results depend on -/

/-- `b` and `b'` show the host the same results, DONE, ERR and ERRCODE. -/
def SameReport (b b' : Block) : Prop :=
  b.code = b'.code ∧ b.snum = b'.snum ∧ b.offset = b'.offset ∧ b.done = b'.done ∧ b.err = b'.err ∧
    b.errcode = b'.errcode

theorem finish_sameReport (d : Digits) (hs : Digest) (b b' : Block) : SameReport (finish d hs b) (finish d hs b') :=
  ⟨rfl, rfl, rfl, rfl, rfl, rfl⟩

/-- A job reports the same in every block, but for the results HMAC_INIT leaves as they were: 0 in both
(41_hmac_sha1.md R133). -/
theorem completeJob_sameReport {j : HmacJob} {b b' : Block}
    (h : j.keyOvf = false ∨ ResultsCleared b ∧ ResultsCleared b') :
    SameReport (completeJob j b) (completeJob j b') := by
  cases hovf : j.keyOvf with
  | false =>
    rw [completeJob_of_not_keyOvf hovf, completeJob_of_not_keyOvf hovf]
    exact finish_sameReport _ _ b b'
  | true =>
    obtain ⟨⟨hcode, hsnum, hoffset⟩, hcode', hsnum', hoffset'⟩ := h.resolve_left (by simp [hovf])
    rw [completeJob_of_keyOvf hovf, completeJob_of_keyOvf hovf]
    exact ⟨hcode.trans hcode'.symm, hsnum.trans hsnum'.symm, hoffset.trans hoffset'.symm, rfl, rfl, rfl⟩

/-- Under the invariant the results are 0 while a record is latched (93_implementation_defined.md U16). -/
theorem MachineInv.resultsCleared {s : State} {l : Latch} (h : MachineInv s) (hl : s.st.latch = some l) :
    ResultsCleared s.st := by
  obtain ⟨-, -, -, -, hzero, -⟩ := h
  exact hzero fun ⟨hidle, _⟩ => by simp [(busy_eq_false_iff _).mp hidle] at hl

theorem complete_sameReport {s t : State} {l l' : Latch} (hs : s.st.latch = some l) (ht : t.st.latch = some l')
    (h : SameReport (completeLatch l s.st) (completeLatch l' t.st)) : SameReport (complete s).st (complete t).st := by
  rwa [complete_of_latch hs, complete_of_latch ht]

/-- Settles O43: a completion is a job's or TRUNCATE's, and neither reads more than its record. -/
theorem resultDependsOnTheLatchAlone : Obligations.ResultDependsOnTheLatchAlone := by
  have cleared {s t : State} {l l' : Latch} (hs : s.st.latch = some l) (ht : t.st.latch = some l')
      (h : MachineInv s ∧ MachineInv t) : ResultsCleared s.st ∧ ResultsCleared t.st :=
    h.imp (·.resultsCleared hs) (·.resultsCleared ht)
  refine ⟨fun s t l hs ht h => ?_, fun s t j hs ht h => ?_⟩
  · refine complete_sameReport hs ht ?_
    cases l with
    | genCounter j => exact completeJob_sameReport (h.imp (fun hj => hj j (.inl rfl)) (cleared hs ht))
    | genTime j => exact completeJob_sameReport (h.imp (fun hj => hj j (.inr rfl)) (cleared hs ht))
    | truncate d digest => exact finish_sameReport d digest s.st t.st
  · exact complete_sameReport hs ht (completeJob_sameReport (h.imp_right (cleared hs ht)))

/-! ### The result laws -/

/-- Settles O44: the job latched from the counter is completed in the block the acceptance left; a second round does the
same from the next counter. -/
theorem hotpResultLaw : Obligations.HotpResultLaw := by
  refine ⟨fun s d hidle hd hovf => ?_, fun s d hidle hd hovf => ?_⟩
  · obtain ⟨t, hx, ht⟩ := exec_genCounter_st hidle hd
    refine ⟨t, hx, by rw [ht, enterBusy_busy], fun n v u hstays hstep huidle hreset => ?_⟩
    obtain ⟨w, hu⟩ := busy_stretch_completes (by rw [ht]; rfl) hstays hstep huidle hreset
    rw [completeLatch, completeJob_of_not_keyOvf hovf, ht] at hu
    rw [hu]
    exact ⟨⟨rfl, rfl, rfl⟩, rfl, rfl, rfl, BitVec.toNat_add _ _⟩
  · have hround := counterRound_advances hidle (by omega)
    have hcode := (counterRound_result hidle hd).1
    have hcode' := (counterRound_result hround.idle ((congrArg _ hround.digits).trans hd)).1
    rw [hround.keyOvf, hround.key, hround.counter] at hcode'
    simp only [hovf] at hcode hcode'
    exact ⟨hcode, hcode'⟩

/-- Settles O45: the job latched from the sample is completed in the block the acceptance left. -/
theorem totpResultLaw : Obligations.TotpResultLaw := by
  intro s d n u0 hidle hd hovf hstep hn hepoch
  refine ⟨_, exec_genTime_accepted hidle hd hstep hn hepoch, rfl, fun m v u hstays hlast huidle hreset => ?_⟩
  obtain ⟨w, hu⟩ := busy_stretch_completes rfl hstays hlast huidle hreset
  rw [completeLatch, completeJob_of_not_keyOvf hovf] at hu
  rw [hu]
  exact ⟨⟨rfl, rfl, rfl⟩, rfl, rfl, rfl, rfl, rfl⟩

/-! ### What else touches the results -/

/-- The instructions that report: the three commands with effects, and a write of a word to CMD. -/
def Reports (i : Instr) : Prop := i = .genCounter ∨ i = .genTime ∨ i = .truncate ∨ ∃ w, i = .wrCmd w

/-- The word of an instruction that is no reporting one is NOP's. -/
theorem eq_zero_of_not_reports {i : Instr} {w : Word} (hi : ¬Reports i) (hw : i = writeCmdInstr w ∨ i = .wrCmd w) :
    w = 0 := by
  rcases hw with rfl | rfl
  · rcases writeCmdInstr_cases w with ⟨h, -⟩ | ⟨-, h⟩ | ⟨-, h⟩ | ⟨-, h⟩ | ⟨-, h⟩
    · exact h
    · exact (hi (.inl h)).elim
    · exact (hi (.inr (.inl h))).elim
    · exact (hi (.inr (.inr (.inl h)))).elim
    · exact (hi (.inr (.inr (.inr ⟨w, h⟩)))).elim
  · exact (hi (.inr (.inr (.inr ⟨w, rfl⟩)))).elim

/-- When IDLE, every other instruction leaves the report, the latch and BUSY_WR alone (43_commands.md R199). -/
theorem exec_idle_sameReport {i : Instr} {s t : State} (hidle : s.st.busy = false) (hi : ¬Reports i)
    (h : exec i s = .next t) :
    SameReport t.st s.st ∧ t.st.latch = s.st.latch ∧ t.st.busyWr = s.st.busyWr := by
  cases exec_idleEffect hidle h with
  | config hc =>
    obtain ⟨_, _, _, _, _, hb⟩ := hc
    rw [hb]
    exact ⟨⟨rfl, rfl, rfl, rfl, rfl, rfl⟩, rfl, rfl⟩
  | keyClear hb =>
    rw [hb]
    exact ⟨⟨rfl, rfl, rfl, rfl, rfl, rfl⟩, rfl, rfl⟩
  | keyByte k hb =>
    rw [hb, appendKeyByte]
    split <;> exact ⟨⟨rfl, rfl, rfl, rfl, rfl, rfl⟩, rfl, rfl⟩
  | command w hw hb =>
    obtain rfl := eq_zero_of_not_reports hi hw
    rw [hb]
    exact ⟨⟨rfl, rfl, rfl, rfl, rfl, rfl⟩, rfl, rfl⟩

/-- Settles O52: when IDLE by the effects other than a command's; a read changes nothing, and a write while BUSY sets
BUSY_WR alone. -/
theorem onlyCommandsTouchResultsAndStatus : Obligations.OnlyCommandsTouchResultsAndStatus := by
  intro i s t hcounter htime htruncate hcmd h
  have hi : ¬Reports i := by
    rintro (hi | hi | hi | ⟨w, hi⟩)
    · exact hcounter hi
    · exact htime hi
    · exact htruncate hi
    · exact hcmd w hi
  cases hbusy : s.st.busy with
  | false =>
    obtain ⟨⟨hcode, hsnum, hoffset, hdone, herr, herrcode⟩, hlatch, hwr⟩ := exec_idle_sameReport hbusy hi h
    exact ⟨hcode, hsnum, hoffset, hdone, herr, herrcode, hlatch, .inl hwr⟩
  | true =>
    cases hwrite : (encode i).write with
    | false =>
      obtain ⟨r, hr⟩ := exec_read hwrite s
      rw [hr] at h
      cases h
      exact ⟨rfl, rfl, rfl, rfl, rfl, rfl, rfl, .inl rfl⟩
    | true =>
      rw [exec_write_busy hwrite hbusy] at h
      cases h
      exact ⟨rfl, rfl, rfl, rfl, rfl, rfl, rfl, .inr ⟨rfl, rfl, rfl⟩⟩

end Sys2Proof.Machine
end

section
/-! The statements of 60_exceptions.md: the host's fault, a step for every state, and the error codes. -/

namespace Sys2Proof.Machine

/-! ### The host's fault -/

/-- A step keeps the host's fault, or is the SLVERR that records a first one (60_exceptions.md R216). -/
theorem step_hostFault {s t : State} (h : step s = .next t) : t.hostFault = s.hostFault ∨
    ∃ e, t.hostFault = s.hostFault.or (some (.slverr e)) ∧ t.resp = some .slverr ∧ t.st = s.st := by
  rcases step_cases h with ⟨levels, -, rfl⟩ | ⟨-, u, hu, rfl⟩ | ⟨-, -, ht⟩ | ⟨u, v, tr, i, hv, -, -, -, -, hx⟩ |
    ⟨v, tr, e, hv, -, rfl⟩
  · exact .inl rfl
  · exact .inl ((complete_hostFault u).trans hu.hostFault)
  · exact .inl ht.hostFault
  · obtain ⟨-, -, hfault, -⟩ := exec_environment hx
    exact .inl (hfault.trans hv.hostFault)
  · exact .inr ⟨e, by rw [busError_hostFault, hv.hostFault], rfl, hv.st⟩

/-- Settles O38: a step that records a fault keeps the one there is. -/
theorem hostFaultIsNeverCleared : Obligations.HostFaultIsNeverCleared := by
  intro s t h
  rcases step_hostFault h with hkept | ⟨e, hfault, hresp, hst⟩
  · exact ⟨fun f hf => hkept.trans hf, fun hnone hsome => absurd (hkept.trans hnone) hsome⟩
  · exact ⟨fun f hf => by rw [hfault, hf, Option.some_or], fun _ _ => ⟨hresp, hst⟩⟩

/-! ### Every step answers a next state -/

/-- A transaction answers a next state, admitted or refused (60_exceptions.md R211). -/
theorem runTransaction_next (t : Transaction) (s : State) : ∃ u, runTransaction t s = .next u := by
  cases hd : decode t with
  | ok i =>
    rw [runTransaction_ok hd]
    exact exec_next i s
  | error e => exact ⟨_, runTransaction_error hd s⟩

/-- The step of the host or of the engine answers a next state, with nothing to issue too (60_exceptions.md R226). -/
theorem agentStep_next (s : State) : ∃ t, agentStep s = .next t := by
  rcases agentStep_cases s with ⟨-, u, -, h⟩ | ⟨-, -, h⟩ | ⟨-, t, v, -, -, -, -, h⟩
  · exact ⟨_, h⟩
  · exact ⟨_, h⟩
  · rw [h]
    exact runTransaction_next t v

/-- A step answers a next state, whatever the level of the reset input. -/
theorem step_next (s : State) : ∃ t, step s = .next t := by
  match hr : s.resetIn with
  | true :: levels => exact ⟨_, step_of_reset hr⟩
  | false :: levels =>
    rw [step_of_noReset (.inl hr)]
    exact agentStep_next _
  | [] =>
    rw [step_of_noReset (.inr ⟨hr, rfl⟩)]
    exact agentStep_next _

/-- Settles O39, from the totality of a step and of an instruction. -/
theorem everyStepAnswersANextState : Obligations.EveryStepAnswersANextState := ⟨step_next, exec_next⟩

/-! ### The error codes -/

/-- The value of an error code is its place in R210's table. -/
theorem errBits_toNat (e : ErrCode) : (errBits e).toNat = e.ctorIdx := by cases e <;> rfl

theorem errBits_toNat_lt (e : ErrCode) : (errBits e).toNat < 6 := by cases e <;> decide

/-- Different error codes have different values. -/
theorem errBits_injective : Function.Injective errBits := by
  intro e f h
  have hplace : e.ctorIdx = f.ctorIdx := by rw [← errBits_toNat, ← errBits_toNat, h]
  rw [← ErrCode.ofNat_ctorIdx e, hplace, ErrCode.ofNat_ctorIdx]

/-- Settles O25: the values are the table's, below 6, and tell the codes apart. -/
theorem errorCodesAreThoseOfTheTable : Obligations.ErrorCodesAreThoseOfTheTable :=
  ⟨rfl, rfl, rfl, rfl, rfl, rfl, errBits_toNat_lt, fun _ _ h => errBits_injective h⟩

end Sys2Proof.Machine
end

section
/-! The statements of 70_reset_and_hazards.md: the state after reset, a command in flight completes or is reset, and a
poll on BUSY ends. -/

namespace Sys2Proof.Machine

/-! ### The state after reset -/

/-- What the registers read as after reset (70_reset_and_hazards.md R240). -/
theorem regRead_reset (r : Reg) : regRead r Block.reset =
    if r = .id then 0x4F545031#32 else if r = .config then 0x0000000F#32 else 0#32 := by
  cases r <;> decide

/-- Settles O27: the step is `resetBlock`, and the reads are those of the reset block. -/
theorem resetSetsEveryStateItem : Obligations.ResetSetsEveryStateItem := by
  refine ⟨fun s levels hr => step_of_reset hr, ⟨rfl, rfl, rfl, rfl⟩, fun r => ?_⟩
  rw [exec_readInstr, ← regRead_reset]
  rfl

/-- Settles O36: KEY_CAP is the reference value, and the reset block meets its part of the invariant. -/
theorem resetStateMeetsTheInvariant : Obligations.ResetStateMeetsTheInvariant :=
  machineInv_iff.mpr ⟨by decide, blockInv_reset _⟩

/-! ### A step while BUSY -/

/-- A transaction while BUSY leaves the block BUSY and the latency as it is. -/
theorem runTransaction_busy {s : State} (hbusy : s.st.busy = true) (t : Transaction) :
    ∃ u, runTransaction t s = .next u ∧ u.st.busy = true ∧ u.wait = s.wait := by
  cases hd : decode t with
  | error e => exact ⟨_, runTransaction_error hd s, hbusy, rfl⟩
  | ok i =>
    obtain ⟨u, hu⟩ := exec_next i s
    refine ⟨u, (runTransaction_ok hd s).trans hu, ?_⟩
    obtain ⟨r, rfl | rfl⟩ := exec_busy hbusy hu <;> exact ⟨hbusy, rfl⟩

/-- Fetching leaves the latency as it is. -/
theorem fetch_wait {s u : State} {t : Transaction} (h : fetch s = some (t, u)) : u.wait = s.wait := by
  rcases (fetch_some h).2 with ⟨rest, -, rfl⟩ | ⟨off, mask, val, rest, -, -, rfl⟩
  · rfl
  · split <;> rfl

/-- A host step while BUSY leaves the block BUSY and the latency as it is. -/
theorem hostStep_busy {s : State} (hbusy : s.st.busy = true) :
    ∃ u, hostStep s = .next u ∧ u.st.busy = true ∧ u.wait = s.wait := by
  rcases hostStep_cases s with ⟨-, h⟩ | ⟨t, v, hf, hv, h⟩
  · exact ⟨s, h, hbusy, rfl⟩
  · rw [h, ← fetch_wait hf]
    exact runTransaction_busy (hv.st ▸ hbusy) t

/-- The latency drawn does not depend on the reset input. -/
theorem drawLatency_wait_resetIn (s : State) (levels : List Bool) :
    (drawLatency { s with resetIn := levels }).wait = (drawLatency s).wait := by
  cases hw : s.wait with
  | some n => simp [drawLatency, hw]
  | none => cases hl : s.latencyIn <;> simp [drawLatency, hw, hl]

/-- The reset input is asserted at the coming step or it is not. -/
theorem reset_or_noReset (s : State) : (∃ levels, s.resetIn = true :: levels) ∨ ∃ levels, noReset s levels := by
  match hr : s.resetIn with
  | true :: levels => exact .inl ⟨levels, rfl⟩
  | false :: levels => exact .inr ⟨levels, .inl hr⟩
  | [] => exact .inr ⟨[], .inr ⟨hr, rfl⟩⟩

/-- While BUSY an agent step is the completion, or the host's with one transaction of the latency passed. -/
theorem agentStep_busy_cases {s : State} (hbusy : s.st.busy = true) :
    agentStep s = .next (complete (drawLatency s)) ∨ ∃ n, (drawLatency s).wait = some (n + 1) ∧
      agentStep s = hostStep { drawLatency s with wait := some n } := by
  obtain ⟨n, hn⟩ := drawLatency_wait s
  by_cases hp : s.program = []
  · exact .inl (agentStep_busy_complete hbusy (.inr hp))
  · cases n with
    | zero => exact .inl (agentStep_busy_complete hbusy (.inl hn))
    | succ n =>
      refine .inr ⟨n, hn, ?_⟩
      rw [← agentStep_drawLatency hbusy]
      exact agentStep_busy_wait (by simpa) hn (by simpa)

/-- A step while BUSY ends the command, by the reset or by the completion, and leaves the host's program; or it is the
host's, and one transaction of the latency has passed (43_commands.md R195). -/
theorem step_busy_cases {s : State} (hbusy : s.st.busy = true) :
    (∃ u, step s = .next u ∧ u.st.busy = false ∧ u.program = s.program) ∨
      ∃ v n, step s = hostStep v ∧ v.st = s.st ∧ v.program = s.program ∧ v.wait = some n ∧
        (drawLatency s).wait = some (n + 1) := by
  rcases reset_or_noReset s with ⟨levels, hr⟩ | ⟨levels, hr⟩
  · exact .inl ⟨_, step_of_reset hr, rfl, rfl⟩
  · rw [step_of_noReset hr]
    rcases agentStep_busy_cases (s := { s with resetIn := levels }) hbusy with h | ⟨n, hn, h⟩
    · exact .inl ⟨_, h, complete_busy _, by simp⟩
    · exact .inr ⟨_, n, h, by simp, by simp, rfl, (drawLatency_wait_resetIn s levels).symm.trans hn⟩

/-! ### A command in flight completes -/

/-- From a busy state the command ends within its latency plus one steps, in a state with whatever `P` the steps while
BUSY keep. -/
theorem busy_run_ends {P : State → Prop} (hP : ∀ s u, s.st.busy = true → step s = .next u → P s → P u) {s : State}
    {n : Nat} (hbusy : s.st.busy = true) (hn : (drawLatency s).wait = some n) (hPs : P s) :
    ∃ k u, k ≤ n + 1 ∧ Host.Core.run Sys2Proof.core k s = .next u ∧ u.st.busy = false ∧ P u := by
  induction n using Nat.strong_induction_on generalizing s with
  | h n ih =>
    rcases step_busy_cases hbusy with ⟨u, hu, hidle, -⟩ | ⟨v, m, hstep, hst, -, hw, hm⟩
    · exact ⟨1, u, by omega, run_of_step hu, hidle, hP s u hbusy hu hPs⟩
    · obtain rfl : n = m + 1 := Option.some.inj (hn.symm.trans hm)
      obtain ⟨u, hu, hubusy, huwait⟩ := hostStep_busy (hst ▸ hbusy)
      have hwait : u.wait = some m := huwait.trans hw
      have hdrawn : (drawLatency u).wait = some m := by rwa [drawLatency_drawn hwait]
      have hfirst : step s = .next u := hstep.trans hu
      obtain ⟨k, t, hk, hrun, hend⟩ := ih m (Nat.lt_succ_self m) hubusy hdrawn (hP s u hbusy hfirst hPs)
      exact ⟨k + 1, t, by omega, (run_of_step hfirst).trans hrun, hend⟩

/-- Settles O40, by induction on the latency. -/
theorem everyCommandCompletes : Obligations.EveryCommandCompletes := by
  intro s hbusy
  obtain ⟨n, hn⟩ := drawLatency_wait s
  obtain ⟨k, u, hk, hrun, hidle, -⟩ := busy_run_ends (P := fun _ => True) (fun _ _ _ _ => id) hbusy hn trivial
  exact ⟨k, u, by simpa [hn] using hk, hrun, hidle⟩

/-! ### A poll on BUSY ends -/

/-- Runs compose. -/
theorem run_trans {s u : State} {k : Nat} (hk : Host.Core.run Sys2Proof.core k s = .next u) (j : Nat) :
    Host.Core.run Sys2Proof.core (k + j) s = Host.Core.run Sys2Proof.core j u := by
  induction k generalizing s with
  | zero =>
    cases hk
    rw [Nat.zero_add]
  | succ k ih =>
    obtain ⟨t, ht⟩ := step_next s
    rw [run_of_step ht] at hk
    rw [Nat.succ_add, run_of_step ht, ih hk]

/-- BUSY is bit 0 of STATUS (10_state.md R26). -/
theorem statusWord_and_one (b : Block) : statusWord b &&& 1#32 = if b.busy then 1#32 else 0#32 := by
  apply BitVec.eq_of_toNat_eq
  rw [statusWord_eq_sum, BitVec.toNat_and, BitVec.toNat_ofNat, BitVec.toNat_ofNat, Nat.and_one_is_mod]
  cases b.busy <;> simp <;> omega

/-- The host waits for BUSY to be 0, and goes on with `rest` (30_encoding.md R100). -/
def PollsBusy (rest : List HostStmt) (s : State) : Prop :=
  s.program = .poll Reg.status.off 0x00000001#32 0x00000000#32 :: rest

section
variable {rest : List HostStmt} {s u : State}

/-- A step while BUSY keeps the poll: the read sees BUSY, and no other agent changes the program. -/
theorem PollsBusy.step_busy (hp : PollsBusy rest s) (hbusy : s.st.busy = true) (h : step s = .next u) :
    PollsBusy rest u := by
  rcases step_busy_cases hbusy with ⟨v, hv, -, hprog⟩ | ⟨v, n, hstep, hst, hprog, -⟩
  · cases hv.symm.trans h
    exact hprog.trans hp
  · have hread := hostStep_poll_answers (hprog.trans hp) (readAnswers_register .status v)
    have hbit : statusWord v.st &&& 1#32 = 1#32 := by simp [statusWord_and_one, hst, hbusy]
    cases (hstep.trans hread).symm.trans h
    simp [PollsBusy, afterPoll, regRead, hbit]

/-- When IDLE and not reset the poll leaves the program in one step. -/
theorem PollsBusy.step_idle (hp : PollsBusy rest s) (hidle : s.st.busy = false) {levels : List Bool}
    (hr : noReset s levels) : ∃ u, step s = .next u ∧ u.program = rest ∧ u.st.busy = false := by
  have hbit : statusWord s.st &&& 1#32 = 0#32 := by simp [statusWord_and_one, hidle]
  exact ⟨_, step_poll_idle hp hr (readAnswers_register .status s) hidle, by simp [afterPoll, regRead, hbit], hidle⟩

/-- When IDLE the poll leaves the program once the reset input is no longer asserted. -/
theorem PollsBusy.ends_idle (hp : PollsBusy rest s) (hidle : s.st.busy = false) :
    ∃ k u, Host.Core.run Sys2Proof.core k s = .next u ∧ u.program = rest ∧ u.st.busy = false := by
  generalize hl : s.resetIn = levels
  induction levels generalizing s with
  | nil =>
    obtain ⟨u, hu, hend⟩ := hp.step_idle hidle (.inr ⟨hl, rfl⟩)
    exact ⟨1, u, run_of_step hu, hend⟩
  | cons asserted levels ih =>
    cases asserted with
    | false =>
      obtain ⟨u, hu, hend⟩ := hp.step_idle hidle (.inl hl)
      exact ⟨1, u, run_of_step hu, hend⟩
    | true =>
      obtain ⟨k, u, hrun, hend⟩ := ih (s := resetBlock { s with resetIn := levels }) hp rfl rfl
      exact ⟨k + 1, u, (run_of_step (step_of_reset hl)).trans hrun, hend⟩

end

/-- Settles O41: the command in flight ends with the poll still in the program, and the poll then sees BUSY 0. -/
theorem pollOnBusyEnds : Obligations.PollOnBusyEnds := by
  intro s rest (hp : PollsBusy rest s)
  obtain ⟨k, u, hrun, hidle, hpoll⟩ : ∃ k u, Host.Core.run Sys2Proof.core k s = .next u ∧ u.st.busy = false ∧
      PollsBusy rest u := by
    cases hbusy : s.st.busy with
    | false => exact ⟨0, s, rfl, hbusy, hp⟩
    | true =>
      obtain ⟨n, hn⟩ := drawLatency_wait s
      obtain ⟨k, u, -, hend⟩ :=
        busy_run_ends (fun _ _ hb h (hp : PollsBusy rest _) => hp.step_busy hb h) hbusy hn hp
      exact ⟨k, u, hend⟩
  obtain ⟨j, v, hj, hend⟩ := hpoll.ends_idle hidle
  exact ⟨k + j, v, (run_trans hrun j).trans hj, hend⟩

end Sys2Proof.Machine
end
